-- ==== Sys2Proof/Word.lean ====
section
/-! DEFINITION. Words of the PSB: the widths that rules R8, R14, R25, R64 and R124 use. -/

namespace Sys2Proof

/-- A register of the window, an argument, a duration or a command word: 32 bits (R38, R64, D4). -/
abbrev Word := BitVec 32

/-- A value of `NOW`, in time units of 1 ms: 64 bits (R14). -/
abbrev Time := BitVec 64

/-- A duty percentage, held in 7 bits (R25). -/
abbrev Duty := BitVec 7

/-- A channel number as a command, a record or a port carries it: 4 bits (R64, R124, R130, R131). -/
abbrev Chan := BitVec 4

/-- A handler token: 16 bits (R34, R37, R64). -/
abbrev Token := BitVec 16

end Sys2Proof
end

