-- ==== Sys2Proof/Syntax.lean ====
section
/-! DEFINITION. The commands of the PSB: one constructor for each row of spec/opcode_table.json (R67). Operands
that come from ARG0..ARG3 (R65) are state, not syntax. -/

namespace Sys2Proof

/-- A command, as R67's opcode map lists them. `ch` is the CH field, `tok` the TOK field. -/
inductive Instr where
  /-- NOP (R101). -/
  | nop
  /-- WRITE, with V = FL[0] (R94). -/
  | write (ch : Chan) (v : Bool)
  /-- TOGGLE (R95). -/
  | toggle (ch : Chan)
  /-- BLINK, with OFFP = FL[0] (R96). -/
  | blink (ch : Chan) (offp : Bool)
  /-- PULSE, with FL[3:0] the presence of ARG0..ARG3 (R97). -/
  | pulse (ch : Chan) (fl : BitVec 4)
  /-- FADE (R98). -/
  | fade (ch : Chan)
  /-- STOP (R99). -/
  | stop (ch : Chan)
  /-- STOP_ALL (R100). -/
  | stopAll
  /-- IN_ON_HIGH (R104). -/
  | inOnHigh (ch : Chan) (tok : Token)
  /-- IN_ON_LOW (R105). -/
  | inOnLow (ch : Chan) (tok : Token)
  /-- IN_ON_CHANGED (R106). -/
  | inOnChanged (ch : Chan) (tok : Token)
  /-- IN_CLEAR (R107). -/
  | inClear (ch : Chan)
  /-- TOUCH_ON_PRESS (R112). -/
  | touchOnPress (ch : Chan) (tok : Token)
  /-- TOUCH_ON_RELEASE (R113). -/
  | touchOnRelease (ch : Chan) (tok : Token)
  /-- TOUCH_ON_HELD (R114). -/
  | touchOnHeld (ch : Chan) (tok : Token)
  deriving DecidableEq, Repr

/-- The three units a CH field can address (R2, R67). -/
inductive PsbUnit where
  | out
  | inp
  | touch
  deriving DecidableEq, Repr

namespace Instr

/-- R67's column "unit of CH", with the channel the command names. NOP and STOP_ALL have no unit (R120). -/
def target : Instr → Option (PsbUnit × Chan)
  | nop => none
  | write ch _ => some (.out, ch)
  | toggle ch => some (.out, ch)
  | blink ch _ => some (.out, ch)
  | pulse ch _ => some (.out, ch)
  | fade ch => some (.out, ch)
  | stop ch => some (.out, ch)
  | stopAll => none
  | inOnHigh ch _ => some (.inp, ch)
  | inOnLow ch _ => some (.inp, ch)
  | inOnChanged ch _ => some (.inp, ch)
  | inClear ch => some (.inp, ch)
  | touchOnPress ch _ => some (.touch, ch)
  | touchOnRelease ch _ => some (.touch, ch)
  | touchOnHeld ch _ => some (.touch, ch)

end Instr

end Sys2Proof
end

