-- ==== Sys2Proof/Decode.lean ====
section
/-! DEFINITION. The command word of R64, its decoder (R67, R69, R70) and its encoder. -/

namespace Sys2Proof

/-- Why a command word is no command: the two decoding checks of R120, in that order. -/
inductive DecodeError where
  /-- OP is not in the opcode map (R69). Reported to the host as ILLEGAL_OPCODE. -/
  | illegalOpcode
  /-- A must-be-zero field of a legal opcode is nonzero (R70). Reported to the host as RESERVED_FIELD. -/
  | reservedField
  deriving DecidableEq, Repr

/-- `OP = w[7:0]` (R64). -/
def opOf (w : Word) : BitVec 8 := w.extractLsb' 0 8

/-- `CH = w[11:8]` (R64). -/
def chOf (w : Word) : Chan := w.extractLsb' 8 4

/-- `FL = w[15:12]` (R64). -/
def flOf (w : Word) : BitVec 4 := w.extractLsb' 12 4

/-- `TOK = w[31:16]` (R64). -/
def tokOf (w : Word) : Token := w.extractLsb' 16 16

/-- `FL[0]`: V of WRITE and OFFP of BLINK (R67). -/
def fl0Of (w : Word) : Bool := (flOf w).getLsbD 0

/-- `FL[3:1] = 0`, which WRITE and BLINK require (R70). -/
def flagsAbove0Zero (w : Word) : Bool := (flOf w).extractLsb' 1 3 == 0

/-- The command `i`, if the must-be-zero fields of its opcode are zero (R70). -/
def ifZero (fieldsZero : Bool) (i : Instr) : Except DecodeError Instr :=
  if fieldsZero then .ok i else .error .reservedField

/-- R67's opcode map read off a command word. OP is looked up first, then the must-be-zero fields (R120). -/
def decode (w : Word) : Except DecodeError Instr :=
  match (opOf w).toNat with
  | 0x00 => ifZero (chOf w == 0 && flOf w == 0 && tokOf w == 0) .nop
  | 0x01 => ifZero (flagsAbove0Zero w && tokOf w == 0) (.write (chOf w) (fl0Of w))
  | 0x02 => ifZero (flOf w == 0 && tokOf w == 0) (.toggle (chOf w))
  | 0x03 => ifZero (flagsAbove0Zero w && tokOf w == 0) (.blink (chOf w) (fl0Of w))
  | 0x04 => ifZero (tokOf w == 0) (.pulse (chOf w) (flOf w))
  | 0x05 => ifZero (flOf w == 0 && tokOf w == 0) (.fade (chOf w))
  | 0x06 => ifZero (flOf w == 0 && tokOf w == 0) (.stop (chOf w))
  | 0x07 => ifZero (chOf w == 0 && flOf w == 0 && tokOf w == 0) .stopAll
  | 0x10 => ifZero (flOf w == 0) (.inOnHigh (chOf w) (tokOf w))
  | 0x11 => ifZero (flOf w == 0) (.inOnLow (chOf w) (tokOf w))
  | 0x12 => ifZero (flOf w == 0) (.inOnChanged (chOf w) (tokOf w))
  | 0x13 => ifZero (flOf w == 0 && tokOf w == 0) (.inClear (chOf w))
  | 0x20 => ifZero (flOf w == 0) (.touchOnPress (chOf w) (tokOf w))
  | 0x21 => ifZero (flOf w == 0) (.touchOnRelease (chOf w) (tokOf w))
  | 0x22 => ifZero (flOf w == 0) (.touchOnHeld (chOf w) (tokOf w))
  | _ => .error .illegalOpcode

/-- A field placed in a word with its lowest bit at bit `lo` (R8). Words are the OR of their fields, each at its place. -/
def place {n m : Nat} (lo : Nat) (field : BitVec n) : BitVec m := field.setWidth m <<< lo

/-- The command word: TOK in 31:16, FL in 15:12, CH in 11:8, OP in 7:0 (R64). -/
def pack (op : BitVec 8) (ch : Chan) (fl : BitVec 4) (tok : Token) : Word :=
  place 16 tok ||| place 12 fl ||| place 8 ch ||| place 0 op

/-- A flag field with only `FL[0]` used (WRITE, BLINK). -/
def flag0 (b : Bool) : BitVec 4 := if b then 1 else 0

/-- The word of a command, from R67's columns OP, FL and TOK. -/
def encode : Instr → Word
  | .nop => pack 0x00 0 0 0
  | .write ch v => pack 0x01 ch (flag0 v) 0
  | .toggle ch => pack 0x02 ch 0 0
  | .blink ch offp => pack 0x03 ch (flag0 offp) 0
  | .pulse ch fl => pack 0x04 ch fl 0
  | .fade ch => pack 0x05 ch 0 0
  | .stop ch => pack 0x06 ch 0 0
  | .stopAll => pack 0x07 0 0 0
  | .inOnHigh ch tok => pack 0x10 ch 0 tok
  | .inOnLow ch tok => pack 0x11 ch 0 tok
  | .inOnChanged ch tok => pack 0x12 ch 0 tok
  | .inClear ch => pack 0x13 ch 0 0
  | .touchOnPress ch tok => pack 0x20 ch 0 tok
  | .touchOnRelease ch tok => pack 0x21 ch 0 tok
  | .touchOnHeld ch tok => pack 0x22 ch 0 tok

/-- A row of the opcode map as R67 gives it on the whole word. -/
structure OpcodeRow where
  mnemonic : String
  mask : Word
  pattern : Word
  deriving DecidableEq, Repr

/-- The opcode map's row of a command: R67's mask and match on the whole word. -/
def rowOf : Instr → OpcodeRow
  | .nop => { mnemonic := "NOP", mask := 0xFFFFFFFF, pattern := 0x00 }
  | .write _ _ => { mnemonic := "WRITE", mask := 0xFFFFE0FF, pattern := 0x01 }
  | .toggle _ => { mnemonic := "TOGGLE", mask := 0xFFFFF0FF, pattern := 0x02 }
  | .blink _ _ => { mnemonic := "BLINK", mask := 0xFFFFE0FF, pattern := 0x03 }
  | .pulse _ _ => { mnemonic := "PULSE", mask := 0xFFFF00FF, pattern := 0x04 }
  | .fade _ => { mnemonic := "FADE", mask := 0xFFFFF0FF, pattern := 0x05 }
  | .stop _ => { mnemonic := "STOP", mask := 0xFFFFF0FF, pattern := 0x06 }
  | .stopAll => { mnemonic := "STOP_ALL", mask := 0xFFFFFFFF, pattern := 0x07 }
  | .inOnHigh _ _ => { mnemonic := "IN_ON_HIGH", mask := 0x0000F0FF, pattern := 0x10 }
  | .inOnLow _ _ => { mnemonic := "IN_ON_LOW", mask := 0x0000F0FF, pattern := 0x11 }
  | .inOnChanged _ _ => { mnemonic := "IN_ON_CHANGED", mask := 0x0000F0FF, pattern := 0x12 }
  | .inClear _ => { mnemonic := "IN_CLEAR", mask := 0xFFFFF0FF, pattern := 0x13 }
  | .touchOnPress _ _ => { mnemonic := "TOUCH_ON_PRESS", mask := 0x0000F0FF, pattern := 0x20 }
  | .touchOnRelease _ _ => { mnemonic := "TOUCH_ON_RELEASE", mask := 0x0000F0FF, pattern := 0x21 }
  | .touchOnHeld _ _ => { mnemonic := "TOUCH_ON_HELD", mask := 0x0000F0FF, pattern := 0x22 }

/-- R67's match/mask pairs, in the opcode map's order: the row of one command of each kind. -/
def opcodeRows : List OpcodeRow :=
  [ .nop, .write 0 false, .toggle 0, .blink 0 false, .pulse 0 0, .fade 0, .stop 0, .stopAll, .inOnHigh 0 0, .inOnLow 0 0,
    .inOnChanged 0 0, .inClear 0, .touchOnPress 0 0, .touchOnRelease 0 0, .touchOnHeld 0 0 ].map rowOf

/-- Whether a word matches a row of the opcode map (R67). -/
abbrev OpcodeRow.Matches (r : OpcodeRow) (w : Word) : Prop := w &&& r.mask = r.pattern

/-- A word as spec/opcode_table.json numbers its bits: `nbits` bits of `w`, and zeros above them. Every command is one
32-bit word (R64), which reaches the PSB whole as the data of a CMD write (R53). -/
def tableWord (nbits w : Nat) : Word := BitVec.ofNat 32 (w % 2 ^ nbits)

/-- The command the decoder reads from a word of the opcode table. -/
def decodeTableWord (nbits w : Nat) : Option Instr :=
  match decode (tableWord nbits w) with
  | .ok i => some i
  | .error _ => none

end Sys2Proof
end

