-- ==== Sys2Proof/Config.lean ====
section
/-! DEFINITION. The build-time parameters of R6 and the fixed constants of R7 and R148. -/

namespace Sys2Proof

/-- The tie rule of `rdiv` (R6, R10). -/
inductive Rounding where
  | halfEven
  | halfUp
  deriving DecidableEq, Repr

/-- The implementation parameters of R6. The spec leaves their values open, so they are an argument of the
model: `State` carries one `Params` that no step changes, and a claim about every state is a claim about
every build (log 1). -/
structure Params where
  /-- `N_OUT`, the number of timed-output channels. -/
  nOut : Nat
  /-- `N_IN`, the number of debounced-input channels. -/
  nIn : Nat
  /-- `N_TOUCH`, the number of touch channels. -/
  nTouch : Nat
  /-- `EVQ_DEPTH`, the event-queue capacity in records. -/
  evqDepth : Nat
  /-- `CARRIER_PERIOD`, the PWM period pulse and fade run at, in time units. -/
  carrierPeriod : Word
  /-- `DUTY_ROUNDING`. -/
  rounding : Rounding
  deriving DecidableEq, Repr

namespace Params

/-- The legal values of R6. -/
abbrev Legal (c : Params) : Prop :=
  (1 ≤ c.nOut ∧ c.nOut ≤ 16) ∧ (1 ≤ c.nIn ∧ c.nIn ≤ 16) ∧ (1 ≤ c.nTouch ∧ c.nTouch ≤ 16) ∧
    (1 ≤ c.evqDepth ∧ c.evqDepth ≤ 255) ∧ c.carrierPeriod ≠ 0

/-- The build that 95_test_vectors.md assumes. DESIGN CHOICE (log 1, unsafe): R6 leaves the values OPEN, and
the machine after reset needs some build. -/
def vectors : Params :=
  { nOut := 4, nIn := 4, nTouch := 8, evqDepth := 16, carrierPeriod := 10, rounding := .halfEven }

end Params

/-- `PULSE_TICK`: the pulse engine's grid, in time units (R7). -/
def PULSE_TICK : Nat := 20

/-- `FADE_TICK`: the fade engine's grid, in time units (R7). -/
def FADE_TICK : Nat := 100

/-- `SETTLE_TIME`: the write-settle delay, in time units (R7). -/
def SETTLE_TIME : Time := 20

/-- `DEFAULT_TRANSITION`: the default `transitionOn`, in time units (R7). -/
def DEFAULT_TRANSITION : Word := 500

end Sys2Proof
end

