-- ==== Sys2Proof/Machine/State.lean ====
section
/-! DEFINITION. The state of the PSB (10_state.md), the transitions its agents can schedule (R5, R129), the records of its
pin-operation port (R130), the reasons a step can stop, and the machine after reset (R135). -/

namespace Sys2Proof.Machine

/-- The effect state of an output channel, in R21's order. Values 5..7 never occur. -/
inductive Effect where
  | idle | writing | blinking | pulsing | fading
  deriving DecidableEq, Repr

/-- The running background task of an output channel, in R22's order. Value 3 never occurs. -/
inductive Engine where
  | none | pulse | fade
  deriving DecidableEq, Repr

/-- The phase of the most recent pulse evaluation, in R31's order. -/
inductive Phase where
  | rising | on | falling | off
  deriving DecidableEq, Repr

/-- The command error codes, in R119's order. Codes 7..15 are never produced. -/
inductive ErrCode where
  | none | busy | illegalOpcode | reservedField | badChannel | periodRange | dutyRange
  deriving DecidableEq, Repr

/-- An output channel's record `OUT[ch]` (R21 to R31). -/
structure OutCh where
  /-- EFFECT (R21). -/
  effect : Effect
  /-- ENGINE (R22). -/
  engine : Engine
  /-- LEVEL (R24). -/
  level : Bool
  /-- DUTY (R25). -/
  duty : Duty
  /-- PERIOD (R26). -/
  period : Word
  /-- SETTLE (R27). -/
  settle : Bool
  /-- SETTLE_DL (R27). -/
  settleDl : Time
  /-- START (R28). -/
  start : Time
  /-- T_ON (R29). -/
  tOn : Word
  /-- ON (R29). -/
  on : Word
  /-- T_OFF (R29). -/
  tOff : Word
  /-- OFF (R29). -/
  off : Word
  /-- PPERIOD (R29). -/
  pperiod : Word
  /-- F_START (R30). -/
  fStart : Duty
  /-- F_END (R30). -/
  fEnd : Duty
  /-- F_DUR (R30). -/
  fDur : Word
  /-- PHASE (R31). -/
  phase : Phase
  deriving DecidableEq, Repr

/-- A callback or handler slot: its valid bit and its token (R34, R37). -/
structure Slot where
  valid : Bool
  tok : Token
  deriving DecidableEq, Repr

/-- An input channel's record `IN[ch]` (R33 to R35). -/
structure InCh where
  /-- SUBSCRIBED (R33). -/
  subscribed : Bool
  /-- HIGH_V and HIGH_TOK (R34). -/
  high : Slot
  /-- LOW_V and LOW_TOK (R34). -/
  low : Slot
  /-- CHANGED_V and CHANGED_TOK (R34). -/
  changed : Slot
  /-- MIN_INTERVAL (R35). -/
  minInterval : Word
  /-- LAST_VALID (R35). -/
  lastValid : Bool
  /-- LAST_TS (R35). -/
  lastTs : Time
  /-- LAST_LEVEL (R35). -/
  lastLevel : Bool
  deriving DecidableEq, Repr

/-- A touch channel's record `TOUCH[ch]` (R36, R37). -/
structure TouchCh where
  /-- PRESSED (R36). -/
  pressed : Bool
  /-- HELD (R36). -/
  held : Bool
  /-- PRESS_V and PRESS_TOK (R37). -/
  pressSlot : Slot
  /-- RELEASE_V and RELEASE_TOK (R37). -/
  releaseSlot : Slot
  /-- HELD_V and HELD_TOK (R37). -/
  heldSlot : Slot
  deriving DecidableEq, Repr

/-- A pin operation: the record kinds of R130 with the fields each one uses. -/
inductive PinOp where
  | writeDigital (ch : Chan) (level : Bool)
  | setPwm (ch : Chan) (period : Word) (duty : Duty)
  | changeDuty (ch : Chan) (duty : Duty)
  | changeFreq (ch : Chan) (period : Word)
  | stopPwm (ch : Chan)
  | subscribeEdge (ch : Chan) (debounce : Word)
  | unsubscribeEdge (ch : Chan)
  deriving DecidableEq, Repr

/-- One entry of the observed port: a record and the `NOW` of the transition that emitted it (R130). -/
structure PortEntry where
  time : Time
  op : PinOp
  deriving DecidableEq, Repr

/-- The events of the touch port, in the order of R132's encoding (0 PRESS, 1 RELEASE, 2 HELD, 3 NONE). -/
inductive TouchEvent where
  | press | release | held | none
  deriving DecidableEq, Repr

/-- The six kinds of transition (R5), with what the agent that makes each one supplies (R129). An access carries its byte
offset in the 4096-byte window (R38) and its width in bytes (R39). -/
inductive Transition where
  /-- A host register read. -/
  | read (off : BitVec 12) (width : Nat)
  /-- A host register write. -/
  | write (off : BitVec 12) (width : Nat) (data : Word)
  /-- A time step (R75). -/
  | timeStep
  /-- An edge notification (R131). -/
  | edge (ch : Chan) (lvl : Bool)
  /-- A touch event (R132). -/
  | touch (ch : Chan) (ev : TouchEvent)
  /-- Reset (R135). -/
  | reset
  deriving DecidableEq, Repr

/-- What the bus answered to the most recent host access (R39, R40). -/
inductive BusResp where
  /-- No host access has been made. -/
  | idle
  /-- A read completed and returned this word. -/
  | data (v : Word)
  /-- A write completed without error. -/
  | done
  /-- A bus error: the access was not 4 bytes wide or not aligned (R39). -/
  | error
  deriving DecidableEq, Repr

/-- The machine. The first groups are the PSB's own state (R13); `cfg` is the argument of R6; the last three fields are the
model's own: what the agents will do next, and what the outside has seen. -/
structure State where
  /-- The build's parameters (R6), which no step changes. -/
  cfg : Params
  /-- NOW (R14). -/
  now : Time
  /-- NOW_HI_SNAP (R15). -/
  nowHiSnap : Word
  /-- ARG[0] (R16). -/
  arg0 : Word
  /-- ARG[1] (R16). -/
  arg1 : Word
  /-- ARG[2] (R16). -/
  arg2 : Word
  /-- ARG[3] (R16). -/
  arg3 : Word
  /-- ERR (R18). -/
  err : Bool
  /-- ERR_CODE (R18). -/
  errCode : ErrCode
  /-- EVT_OVF (R18). -/
  evtOvf : Bool
  /-- IRQ_EN: EVT, ERR and OVF in bits 0, 1 and 2 (R19). -/
  irqEn : BitVec 3
  /-- EVQ, oldest record first (R20). -/
  evq : List Word
  /-- OUT[0..N_OUT-1] (R13). -/
  out : List OutCh
  /-- IN[0..N_IN-1] (R13). -/
  inp : List InCh
  /-- TOUCH[0..N_TOUCH-1] (R13). -/
  touch : List TouchCh
  /-- The model's own: the transitions the agents make next, first one first (log 2). -/
  schedule : List Transition
  /-- The model's own: the pin-operation port as R130 observes it, in emission order (log 5). -/
  port : List PortEntry
  /-- The model's own: the response to the most recent host access (log 4). -/
  resp : BusResp
  deriving DecidableEq, Repr

/-- The reasons a step stops with a fault. -/
inductive Fault where
  /-- Raised by a time step (`timeStep`), safe: some channel has ENGINE = PULSE and PPERIOD = 0. R85 asks for PPERIOD > 0 and
  gives no meaning to `e mod 0`; by R29 no reachable state is such (log 7). -/
  | pulseWithoutPeriod
  deriving DecidableEq, Repr

/-- The reasons a command has no meaning here. -/
inductive Refusal where
  /-- Raised by `exec` for a row of the opcode table that has no meaning yet, safe. Every row has one, so nothing raises it.
  (A command the PSB itself refuses is no refusal of the model: it is a next state with ERR set, R121.) -/
  | notModelled (mnemonic : String)
  deriving DecidableEq, Repr

/-- An output channel after reset (R135). -/
def OutCh.reset : OutCh :=
  { effect := .idle, engine := .none, level := false, duty := 0, period := 0, settle := false, settleDl := 0, start := 0,
    tOn := 0, on := 0, tOff := 0, off := 0, pperiod := 0, fStart := 0, fEnd := 0, fDur := 0, phase := .rising }

/-- An empty slot: invalid, with token 0 (R34, R37). -/
def Slot.empty : Slot := { valid := false, tok := 0 }

/-- An input channel after reset (R135), which is also its state after IN_CLEAR (R107). -/
def InCh.reset : InCh :=
  { subscribed := false, high := .empty, low := .empty, changed := .empty, minInterval := 0, lastValid := false, lastTs := 0,
    lastLevel := false }

/-- A touch channel after reset (R135). -/
def TouchCh.reset : TouchCh :=
  { pressed := false, held := false, pressSlot := .empty, releaseSlot := .empty, heldSlot := .empty }

namespace State

/-- The PSB of a given build right after reset (R135), with nothing scheduled and nothing observed. -/
def resetOf (cfg : Params) : State :=
  { cfg := cfg, now := 0, nowHiSnap := 0, arg0 := 0, arg1 := 0, arg2 := 0, arg3 := 0, err := false, errCode := .none,
    evtOvf := false, irqEn := 0, evq := [], out := List.replicate cfg.nOut OutCh.reset,
    inp := List.replicate cfg.nIn InCh.reset, touch := List.replicate cfg.nTouch TouchCh.reset, schedule := [], port := [],
    resp := .idle }

/-- The machine right after reset, in the build of 95_test_vectors.md (log 1). -/
def reset : State := resetOf Params.vectors

/-- The output record of channel `ch`. A channel that does not exist reads as a reset record (log 6). -/
def outAt (s : State) (ch : Chan) : OutCh := s.out.getD ch.toNat OutCh.reset

/-- The input record of channel `ch`, likewise. -/
def inAt (s : State) (ch : Chan) : InCh := s.inp.getD ch.toNat InCh.reset

/-- The touch record of channel `ch`, likewise. -/
def touchAt (s : State) (ch : Chan) : TouchCh := s.touch.getD ch.toNat TouchCh.reset

/-- `OUT[ch] <- o`. Nothing is written for a channel that does not exist. -/
def setOut (s : State) (ch : Chan) (o : OutCh) : State := { s with out := s.out.set ch.toNat o }

/-- `IN[ch] <- c`, likewise. -/
def setIn (s : State) (ch : Chan) (c : InCh) : State := { s with inp := s.inp.set ch.toNat c }

/-- `TOUCH[ch] <- t`, likewise. -/
def setTouch (s : State) (ch : Chan) (t : TouchCh) : State := { s with touch := s.touch.set ch.toNat t }

end State

end Sys2Proof.Machine
end

