-- ==== Sys2Proof/Machine/Flags.lean ====
section
/-! DEFINITION. Every flag the spec derives from the state: BLINKING and PULSING (R23), BUSY, EVT_PEND (R18) and IRQ (R126),
and the number encodings of the enumerations (R21, R22, R31, R119, R124, R132). -/

namespace Sys2Proof.Machine

/-- `BLINKING(ch)`: some timed effect owns the PWM (R23). -/
def OutCh.blinking (o : OutCh) : Bool :=
  match o.effect with
  | .idle => false
  | .writing => false
  | .blinking => true
  | .pulsing => true
  | .fading => true

/-- `PULSING(ch)` (R23). -/
def OutCh.pulsing (o : OutCh) : Bool :=
  match o.effect with
  | .idle => false
  | .writing => false
  | .blinking => false
  | .pulsing => true
  | .fading => false

/-- `BUSY = OR over ch of OUT[ch].SETTLE` (R18). -/
def State.busy (s : State) : Bool := s.out.any (fun o => o.settle)

/-- `EVT_PEND = (len(EVQ) > 0)` (R18). -/
def State.evtPend (s : State) : Bool := decide (0 < s.evq.length)

/-- `IRQ_EN.EVT` (R19). -/
def State.irqEnEvt (s : State) : Bool := s.irqEn.getLsbD 0

/-- `IRQ_EN.ERR` (R19). -/
def State.irqEnErr (s : State) : Bool := s.irqEn.getLsbD 1

/-- `IRQ_EN.OVF` (R19). -/
def State.irqEnOvf (s : State) : Bool := s.irqEn.getLsbD 2

/-- The level of the interrupt line (R126). -/
def State.irq (s : State) : Bool :=
  (s.irqEnEvt && s.evtPend) || (s.irqEnErr && s.err) || (s.irqEnOvf && s.evtOvf)

/-- EFFECT's number (R21). -/
def Effect.code : Effect → BitVec 3
  | .idle => 0
  | .writing => 1
  | .blinking => 2
  | .pulsing => 3
  | .fading => 4

/-- ENGINE's number (R22). -/
def Engine.code : Engine → BitVec 2
  | .none => 0
  | .pulse => 1
  | .fade => 2

/-- PHASE's number (R31). -/
def Phase.code : Phase → BitVec 2
  | .rising => 0
  | .on => 1
  | .falling => 2
  | .off => 3

/-- ERR_CODE's number (R119). -/
def ErrCode.code : ErrCode → BitVec 4
  | .none => 0
  | .busy => 1
  | .illegalOpcode => 2
  | .reservedField => 3
  | .badChannel => 4
  | .periodRange => 5
  | .dutyRange => 6

/-- The touch port's `ev` (R132). -/
def TouchEvent.code : TouchEvent → BitVec 2
  | .press => 0
  | .release => 1
  | .held => 2
  | .none => 3

end Sys2Proof.Machine
end

