-- ==== Sys2Proof/WellFormed.lean ====
section
/-! DEFINITION. A command is well formed for a build when the channel it names exists there: the channel checks of R120.
The widths of its fields are checked by their types. -/

namespace Sys2Proof

/-- The channel count of a unit: `N_OUT`, `N_IN` or `N_TOUCH` (R6, R120). -/
def Params.count (c : Params) : PsbUnit → Nat
  | .out => c.nOut
  | .inp => c.nIn
  | .touch => c.nTouch

/-- Whether channel `ch` of unit `u` exists in the build (R120: CH is below the unit's count). -/
abbrev Params.HasChannel (c : Params) (u : PsbUnit) (ch : Chan) : Prop := ch.toNat < c.count u

/-- A command whose channel, if it names one, exists in the build (R120). -/
def Instr.wellFormed (c : Params) (i : Instr) : Bool :=
  match i.target with
  | none => true
  | some (u, ch) => decide (c.HasChannel u ch)

end Sys2Proof
end

