-- ==== Sys2Proof/Machine/Ops.lean ====
section
/-! DEFINITION. The shared operations: emitting pin operations (R11, R130), pushing event records (R124, R125), refusing a
command and clearing the error (R121, R122), and the checks every command starts with (R120). -/

namespace Sys2Proof.Machine

/-! ### The pin-operation port -/

/-- The port entries for `ops`, all emitted at `now` (R130). -/
def stamp (now : Time) (ops : List PinOp) : List PortEntry := ops.map (fun op => { time := now, op := op })

/-- `emit`, for a list: `ops` go to the port in order, at the current NOW (R11, R61). -/
def State.emit (s : State) (ops : List PinOp) : State := { s with port := s.port ++ stamp s.now ops }

/-- KIND of a pin-operation record (R130). -/
def PinOp.kind : PinOp → BitVec 4
  | .writeDigital _ _ => 0
  | .setPwm _ _ _ => 1
  | .changeDuty _ _ => 2
  | .changeFreq _ _ => 3
  | .stopPwm _ => 4
  | .subscribeEdge _ _ => 5
  | .unsubscribeEdge _ => 6

/-- CH of a pin-operation record (R130). -/
def PinOp.chan : PinOp → Chan
  | .writeDigital ch _ => ch
  | .setPwm ch _ _ => ch
  | .changeDuty ch _ => ch
  | .changeFreq ch _ => ch
  | .stopPwm ch => ch
  | .subscribeEdge ch _ => ch
  | .unsubscribeEdge ch => ch

/-- A of a pin-operation record; 0 where the kind does not use it (R130). -/
def PinOp.fieldA : PinOp → Word
  | .writeDigital _ level => (BitVec.ofBool level).setWidth 32
  | .setPwm _ period _ => period
  | .changeDuty _ duty => duty.setWidth 32
  | .changeFreq _ period => period
  | .stopPwm _ => 0
  | .subscribeEdge _ debounce => debounce
  | .unsubscribeEdge _ => 0

/-- B of a pin-operation record; 0 where the kind does not use it (R130). -/
def PinOp.fieldB : PinOp → Word
  | .writeDigital _ _ => 0
  | .setPwm _ _ duty => duty.setWidth 32
  | .changeDuty _ _ => 0
  | .changeFreq _ _ => 0
  | .stopPwm _ => 0
  | .subscribeEdge _ _ => 0
  | .unsubscribeEdge _ => 0

/-- The record `{KIND[3:0], CH[3:0], A[31:0], B[31:0]}` as the port carries it (R130). -/
def PinOp.record (op : PinOp) : BitVec 72 :=
  place 68 op.kind ||| place 64 op.chan ||| place 32 op.fieldA ||| place 0 op.fieldB

/-! ### Work on output channels -/

/-- An output channel under work: its record, and what the work has emitted so far, in order. -/
structure ChanRun where
  o : OutCh
  ops : List PinOp
  deriving DecidableEq, Repr

/-- A channel's record before any work. -/
def ChanRun.start (o : OutCh) : ChanRun := { o := o, ops := [] }

/-- `emit op` (R11). -/
def ChanRun.emit (r : ChanRun) (op : PinOp) : ChanRun := { r with ops := r.ops ++ [op] }

/-- Runs a procedure on output channel `ch`, inline in the current transition (R12). -/
def State.onOut (s : State) (ch : Chan) (f : ChanRun → ChanRun) : State :=
  let r := f (ChanRun.start (s.outAt ch))
  (s.setOut ch r.o).emit r.ops

/-- The procedure `f` on channel number `i` with record `o`. -/
def runAt (f : Chan → ChanRun → ChanRun) (i : Nat) (o : OutCh) : ChanRun := f (BitVec.ofNat 4 i) (ChanRun.start o)

/-- Runs a procedure on every output channel, in ascending channel number (R76, R100). A procedure reads and writes the
record of its own channel only, so the order shows only in the order of the emitted records. -/
def State.onEveryOut (s : State) (f : Chan → ChanRun → ChanRun) : State :=
  { s with
    out := s.out.mapIdx (fun i o => (runAt f i o).o)
    port := s.port ++ stamp s.now (s.out.mapIdx (fun i o => (runAt f i o).ops)).flatten }

/-! ### Event records -/

/-- The unit of an event record: SRC 0 is IN, 1 is TOUCH (R124). -/
inductive EvSrc where
  | inp | touch
  deriving DecidableEq, Repr

/-- SRC's number (R124). -/
def EvSrc.code : EvSrc → BitVec 4
  | .inp => 0
  | .touch => 1

/-- `evrec(tok, src, ch, ev, lvl) = {tok, src, ch, ev, 0b000, lvl}`: TOK in 31:16, SRC in 15:12, CH in 11:8, EV in 7:4, LVL in
bit 0 (R124). -/
def evrec (tok : Token) (src : EvSrc) (ch : Chan) (ev : BitVec 4) (lvl : Bool) : Word :=
  place 16 tok ||| place 12 src.code ||| place 8 ch ||| place 4 ev ||| place 0 (BitVec.ofBool lvl)

/-- EV of an IN record at the HIGH slot (R124). -/
def EV_HIGH : BitVec 4 := 0

/-- EV of an IN record at the LOW slot (R124). -/
def EV_LOW : BitVec 4 := 1

/-- EV of an IN record at the CHANGED slot (R124). -/
def EV_CHANGED : BitVec 4 := 2

/-- EV of a TOUCH record at the PRESS slot (R124). -/
def EV_PRESS : BitVec 4 := 0

/-- EV of a TOUCH record at the RELEASE slot (R124). -/
def EV_RELEASE : BitVec 4 := 1

/-- EV of a TOUCH record at the HELD slot (R124). -/
def EV_HELD : BitVec 4 := 2

/-- `push(r)`: appended to EVQ, or dropped with EVT_OVF set if EVQ is full (R125). -/
def State.push (s : State) (r : Word) : State :=
  if s.evq.length < s.cfg.evqDepth then { s with evq := s.evq ++ [r] } else { s with evtOvf := true }

/-- `if v = 1: push(r)`, as the dispatch rules R109 and R115 use it. -/
def State.pushIf (s : State) (v : Bool) (r : Word) : State := if v then s.push r else s

/-! ### Refusing a command: the PSB's one synchronous exception -/

/-- `raise CmdError(code)`: the first code since the last clear is kept, ERR is set, and nothing else changes (R121). -/
def State.raise (s : State) (code : ErrCode) : State :=
  { s with errCode := if s.err then s.errCode else code, err := true }

/-- The return from a refusal: a write of 1 to STATUS bit 1 sets ERR and ERR_CODE to 0 (R47, R122). -/
def State.clearErr (s : State) : State := { s with err := false, errCode := .none }

/-- The code a decoding error is reported with (R119). -/
def decodeErrCode : DecodeError → ErrCode
  | .illegalOpcode => .illegalOpcode
  | .reservedField => .reservedField

/-- A refused command: the machine goes on, with the refusal recorded (R118, R121). -/
def refuse (code : ErrCode) (s : State) : Host.Outcome State Fault Refusal := .next (s.raise code)

/-- A word that is no command. BUSY is checked before decoding, so it is reported first (R119, R120). -/
def refuseWord (e : DecodeError) (s : State) : Host.Outcome State Fault Refusal :=
  refuse (if s.busy then .busy else decodeErrCode e) s

/-- R120's BUSY check, then `run`. The opcode and reserved-field checks stand between BUSY and the channel check in R120; a
command that reaches its meaning has passed them, being decoded (log 9). -/
def unlessBusy (s : State) (run : State → Host.Outcome State Fault Refusal) : Host.Outcome State Fault Refusal :=
  if s.busy then refuse .busy s else run s

/-- R120's checks of a command that names channel `ch` of unit `u`, in order: BUSY, then BAD_CHANNEL, then `run`. -/
def checked (u : PsbUnit) (ch : Chan) (s : State) (run : State → Host.Outcome State Fault Refusal) :
    Host.Outcome State Fault Refusal :=
  unlessBusy s (fun s => if s.cfg.HasChannel u ch then run s else refuse .badChannel s)

end Sys2Proof.Machine
end

