-- ==== Sys2Proof/Machine/Engine.lean ====
section
/-! DEFINITION. The time base and the effect engine (40_engine.md): `rdiv` (R10), the background-task lifecycle (R80, R83), the
pulse scheduler (R85), the fade interpolator (R89), the settle timer (R78) and the time step (R75). -/

namespace Sys2Proof.Machine

/-- `rdiv(n, d)` for d > 0: n/d rounded to the nearest integer, a tie by DUTY_ROUNDING (R10). -/
def rdiv (rounding : Rounding) (n d : Nat) : Nat :=
  let q := n / d
  let r := n % d
  if 2 * r < d then q
  else if d < 2 * r then q + 1
  else
    match rounding with
    | .halfEven => q + q % 2
    | .halfUp => q + 1

/-- A computed duty as DUTY's 7 bits. Every formula that uses it gives at most 100 (R85, R89, R92). -/
def dutyOf (n : Nat) : Duty := BitVec.ofNat 7 n

/-- `(NOW - START) mod 2^64` (R9, R75). -/
def elapsed (now : Time) (o : OutCh) : Nat := (now - o.start).toNat

/-- `cancel_engine(ch)` (R80): a running pulse is forced dark, a fade just ends; EFFECT is left to the caller. -/
def cancelEngine (ch : Chan) (r : ChanRun) : ChanRun :=
  match r.o.engine with
  | .pulse => { (r.emit (.changeDuty ch 0)) with o := { r.o with duty := 0, engine := .none } }
  | .fade => { r with o := { r.o with engine := .none } }
  | .none => r

/-- `ensure_carrier(ch)` (R83): starts the PWM at CARRIER_PERIOD, or retunes it. -/
def ensureCarrier (carrier : Word) (ch : Chan) (r : ChanRun) : ChanRun :=
  if r.o.blinking then
    if r.o.period = carrier then r
    else { (r.emit (.changeFreq ch carrier)) with o := { r.o with period := carrier } }
  else { (r.emit (.setPwm ch carrier 0)) with o := { r.o with period := carrier, duty := 0 } }

/-- The phase and the duty of a pulse profile at `d` time units into its period (R85). The branches are tried in the source's
priority order: rising, on, falling, off. -/
def pulseAt (rounding : Rounding) (o : OutCh) (d : Nat) : Phase × Nat :=
  let a := o.tOn.toNat
  let b := a + o.on.toNat
  let c := b + o.tOff.toNat
  if d ≤ a then (.rising, if a = 0 then 100 else rdiv rounding (100 * d) a)
  else if d ≤ b then (.on, 100)
  else if d ≤ c then (.falling, rdiv rounding (100 * (c - d)) o.tOff.toNat)
  else (.off, 0)

/-- `pulse_eval(ch)` (R85): applies the duty of the profile at the current point of its period. -/
def pulseEval (rounding : Rounding) (now : Time) (ch : Chan) (r : ChanRun) : ChanRun :=
  let p := pulseAt rounding r.o (elapsed now r.o % r.o.pperiod.toNat)
  { (r.emit (.changeDuty ch (dutyOf p.2))) with o := { r.o with duty := dutyOf p.2, phase := p.1 } }

/-- The duty of a fade sample at `e < F_DUR` (R89). -/
def fadeAt (rounding : Rounding) (o : OutCh) (e : Nat) : Nat :=
  rdiv rounding (o.fStart.toNat * (o.fDur.toNat - e) + o.fEnd.toNat * e) o.fDur.toNat

/-- `fade_eval(ch)` (R89): one sample; the fade stops itself once `e ≥ F_DUR`, at F_END. -/
def fadeEval (rounding : Rounding) (now : Time) (ch : Chan) (r : ChanRun) : ChanRun :=
  let e := elapsed now r.o
  if r.o.fDur.toNat ≤ e then
    { (r.emit (.changeDuty ch r.o.fEnd)) with o := { r.o with duty := r.o.fEnd, engine := .none } }
  else
    { (r.emit (.changeDuty ch (dutyOf (fadeAt rounding r.o e)))) with
      o := { r.o with duty := dutyOf (fadeAt rounding r.o e) } }

/-- `settle_expiry(ch)` (R78): completes a WRITE of level 1 whose settle delay ends now. -/
def settleExpiry (now : Time) (ch : Chan) (r : ChanRun) : ChanRun :=
  if r.o.settle = true ∧ now = r.o.settleDl then
    { (r.emit (.writeDigital ch true)) with o := { r.o with level := true, settle := false } }
  else r

/-- The engine evaluation of a time step, if the channel's engine is due on its grid (R75, R84, R88). -/
def engineTick (rounding : Rounding) (now : Time) (ch : Chan) (r : ChanRun) : ChanRun :=
  match r.o.engine with
  | .pulse => if elapsed now r.o % PULSE_TICK = 0 then pulseEval rounding now ch r else r
  | .fade => if elapsed now r.o % FADE_TICK = 0 then fadeEval rounding now ch r else r
  | .none => r

/-- One channel's part of a time step: settle expiry, then the engine (R75, R76). -/
def channelTick (rounding : Rounding) (now : Time) (ch : Chan) (r : ChanRun) : ChanRun :=
  engineTick rounding now ch (settleExpiry now ch r)

/-- A pulse engine without a period, which R85 gives no meaning and R29 rules out (log 7). -/
def OutCh.pulseWithoutPeriod (o : OutCh) : Bool := o.engine == .pulse && o.pperiod == 0

/-- NOW and the OUT records after a time step (R75). -/
def advance (s : State) : State :=
  let s1 := { s with now := s.now + 1 }
  s1.onEveryOut (channelTick s1.cfg.rounding s1.now)

/-- The time step (R75). -/
def timeStep (s : State) : Host.Outcome State Fault Refusal :=
  if s.out.any (fun o => o.pulseWithoutPeriod) then .fault .pulseWithoutPeriod else .next (advance s)

end Sys2Proof.Machine
end

