-- ==== Sys2Proof/Machine/Operands.lean ====
section
/-! DEFINITION. The operands that commands take from ARG0..ARG3, with the defaults of R65 and R66 and the operand checks of
R96, R97 and R98. -/

namespace Sys2Proof.Machine

/-- `ARG[i]` (R16). -/
def State.arg (s : State) (i : Fin 4) : Word :=
  match i with
  | 0 => s.arg0
  | 1 => s.arg1
  | 2 => s.arg2
  | 3 => s.arg3

/-- `ARG[i] <- v` (R16, R52). -/
def State.setArg (s : State) (i : Fin 4) (v : Word) : State :=
  match i with
  | 0 => { s with arg0 := v }
  | 1 => { s with arg1 := v }
  | 2 => { s with arg2 := v }
  | 3 => { s with arg3 := v }

/-- BLINK's `on` (R65). -/
def blinkOn (s : State) : Word := s.arg 0

/-- BLINK's `off`: ARG[1] if OFFP, else ARG[0] (R66). -/
def blinkOff (s : State) (offp : Bool) : Word := if offp then s.arg 1 else s.arg 0

/-- The four durations of a pulse command or profile (R29). -/
structure Profile where
  tOn : Word
  on : Word
  tOff : Word
  off : Word
  deriving DecidableEq, Repr

/-- The resolution of PULSE's operands (R66): an absent `tOn` is DEFAULT_TRANSITION, and any other absent operand is `tOn`. -/
def pulseProfile (s : State) (fl : BitVec 4) : Profile :=
  let tOn := if fl.getLsbD 0 then s.arg 0 else DEFAULT_TRANSITION
  { tOn := tOn
    tOff := if fl.getLsbD 1 then s.arg 1 else tOn
    on := if fl.getLsbD 2 then s.arg 2 else tOn
    off := if fl.getLsbD 3 then s.arg 3 else tOn }

/-- `tOn + on + tOff + off`, exact (R9, R97). -/
def Profile.sum (p : Profile) : Nat := p.tOn.toNat + p.on.toNat + p.tOff.toNat + p.off.toNat

/-- PULSE delegates to blink when both transitions are 0 (R97). -/
abbrev Profile.Delegates (p : Profile) : Prop := p.tOn = 0 ∧ p.tOff = 0

/-- A blink period the PSB accepts: `1 ≤ on + off ≤ 2^32-1`, the sum exact (R92, R96). -/
abbrev BlinkPeriodOk (on off : Word) : Prop := 1 ≤ on.toNat + off.toNat ∧ on.toNat + off.toNat ≤ 2 ^ 32 - 1

/-- A pulse period the PSB accepts: at most `2^32-1` (R97). -/
abbrev PulsePeriodOk (p : Profile) : Prop := p.sum ≤ 2 ^ 32 - 1

/-- FADE's duties are at most 100 (R98). -/
abbrev FadeDutiesOk (s : State) : Prop := (s.arg 0).toNat ≤ 100 ∧ (s.arg 1).toNat ≤ 100

/-- A duty operand narrowed to DUTY's 7 bits. FADE narrows only values that its check has bounded by 100. -/
def dutyOperand (v : Word) : Duty := v.setWidth 7

/-- IN_ON_*'s `debounceMs`: ARG[0] (R65, R103). -/
def debounceOperand (s : State) : Word := s.arg 0

end Sys2Proof.Machine
end

