-- ==== Sys2Proof/Machine/TimedOutput.lean ====
section
/-! DEFINITION. The timed-output commands (41_timed_output.md): WRITE, TOGGLE, BLINK, PULSE, FADE, STOP, STOP_ALL and NOP, and the
procedures they share (R91, R92, R93). -/

namespace Sys2Proof.Machine

/-- `do_write(ch, v)` (R91). `was` is BLINKING(ch), sampled before the teardown. -/
def doWrite (now : Time) (ch : Chan) (v : Bool) (r : ChanRun) : ChanRun :=
  let was := r.o.blinking
  let r1 := cancelEngine ch r
  let r2 := (r1.emit (.changeDuty ch 100)).emit (.stopPwm ch)
  let o2 := { r1.o with duty := 100, effect := .writing }
  if was = true ∧ v = true then { r2 with o := { o2 with settle := true, settleDl := now + SETTLE_TIME } }
  else { (r2.emit (.writeDigital ch v)) with o := { o2 with level := v } }

/-- The blink period `on + off`, which R92 requires to fit 32 bits. -/
def blinkPeriod (on off : Word) : Word := BitVec.ofNat 32 (on.toNat + off.toNat)

/-- The blink duty `rdiv(100*on, on+off)` (R92). -/
def blinkDuty (rounding : Rounding) (on off : Word) : Duty :=
  dutyOf (rdiv rounding (100 * on.toNat) (on.toNat + off.toNat))

/-- `do_blink(ch, on, off)` (R92): in place, period first, if a timed effect owns the PWM; else the PWM is started. -/
def doBlink (rounding : Rounding) (on off : Word) (ch : Chan) (r : ChanRun) : ChanRun :=
  let p := blinkPeriod on off
  let duty := blinkDuty rounding on off
  let r1 := cancelEngine ch r
  let r2 :=
    if r1.o.blinking then (r1.emit (.changeFreq ch p)).emit (.changeDuty ch duty)
    else r1.emit (.setPwm ch p duty)
  { r2 with o := { r1.o with period := p, duty := duty, effect := .blinking } }

/-- `do_stop(ch)` (R93). -/
def doStop (ch : Chan) (r : ChanRun) : ChanRun :=
  let r1 := cancelEngine ch r
  { (r1.emit (.stopPwm ch)) with o := { r1.o with effect := .idle } }

/-- The engine case of PULSE (R97): teardown, carrier, profile, START, and the first tick at once. -/
def startPulse (cfg : Params) (now : Time) (p : Profile) (ch : Chan) (r : ChanRun) : ChanRun :=
  let r1 := ensureCarrier cfg.carrierPeriod ch (cancelEngine ch r)
  pulseEval cfg.rounding now ch
    { r1 with
      o := { r1.o with
        tOn := p.tOn, on := p.on, tOff := p.tOff, off := p.off, pperiod := BitVec.ofNat 32 p.sum, start := now,
        engine := .pulse, effect := .pulsing } }

/-- FADE past its operand check (R98): teardown, carrier, fade parameters, START, and the first sample at once. -/
def startFade (cfg : Params) (now : Time) (fStart fEnd : Duty) (fDur : Word) (ch : Chan) (r : ChanRun) : ChanRun :=
  let r1 := ensureCarrier cfg.carrierPeriod ch (cancelEngine ch r)
  fadeEval cfg.rounding now ch
    { r1 with
      o := { r1.o with
        fStart := fStart, fEnd := fEnd, fDur := fDur, start := now, engine := .fade, effect := .fading } }

/-- The level TOGGLE writes: 0 while blinking, else the other level (R95). -/
def toggleLevel (o : OutCh) : Bool := if o.blinking then false else !o.level

/-- BLINK with its operands resolved; also PULSE's delegated case (R96, R97). -/
def blinkWith (ch : Chan) (on off : Word) (s : State) : Host.Outcome State Fault Refusal :=
  if BlinkPeriodOk on off then .next (s.onOut ch (doBlink s.cfg.rounding on off ch)) else refuse .periodRange s

/-- PULSE's engine case (R97). -/
def pulseWith (ch : Chan) (p : Profile) (s : State) : Host.Outcome State Fault Refusal :=
  if PulsePeriodOk p then .next (s.onOut ch (startPulse s.cfg s.now p ch)) else refuse .periodRange s

/-- NOP (R101). -/
def execNop (s : State) : Host.Outcome State Fault Refusal := unlessBusy s (fun s => .next s)

/-- WRITE (R94). -/
def execWrite (ch : Chan) (v : Bool) (s : State) : Host.Outcome State Fault Refusal :=
  checked .out ch s (fun s => .next (s.onOut ch (doWrite s.now ch v)))

/-- TOGGLE (R95). -/
def execToggle (ch : Chan) (s : State) : Host.Outcome State Fault Refusal :=
  checked .out ch s (fun s => .next (s.onOut ch (doWrite s.now ch (toggleLevel (s.outAt ch)))))

/-- BLINK (R96). -/
def execBlink (ch : Chan) (offp : Bool) (s : State) : Host.Outcome State Fault Refusal :=
  checked .out ch s (fun s => blinkWith ch (blinkOn s) (blinkOff s offp) s)

/-- PULSE (R97). -/
def execPulse (ch : Chan) (fl : BitVec 4) (s : State) : Host.Outcome State Fault Refusal :=
  checked .out ch s (fun s =>
    let p := pulseProfile s fl
    if p.Delegates then blinkWith ch p.on p.off s else pulseWith ch p s)

/-- FADE (R98). -/
def execFade (ch : Chan) (s : State) : Host.Outcome State Fault Refusal :=
  checked .out ch s (fun s =>
    if FadeDutiesOk s then
      .next (s.onOut ch (startFade s.cfg s.now (dutyOperand (s.arg 0)) (dutyOperand (s.arg 1)) (s.arg 2) ch))
    else refuse .dutyRange s)

/-- STOP (R99). -/
def execStop (ch : Chan) (s : State) : Host.Outcome State Fault Refusal :=
  checked .out ch s (fun s => .next (s.onOut ch (doStop ch)))

/-- STOP_ALL (R100). -/
def execStopAll (s : State) : Host.Outcome State Fault Refusal := unlessBusy s (fun s => .next (s.onEveryOut doStop))

end Sys2Proof.Machine
end

