-- ==== Sys2Proof/Machine/DebouncedInput.lean ====
section
/-! DEFINITION. The debounced-input commands and the edge dispatch (42_debounced_input.md). -/

namespace Sys2Proof.Machine

/-- A slot set to a token (R103, R111). -/
def Slot.set (tok : Token) : Slot := { valid := true, tok := tok }

/-- The installation part of `register_slot` (R103): only an Idle channel is subscribed, with the debounce interval `db`. -/
def InCh.install (c : InCh) (db : Word) : InCh :=
  if c.subscribed then c else { c with subscribed := true, minInterval := db }

/-- What the installation emits (R103). -/
def installOps (ch : Chan) (c : InCh) (db : Word) : List PinOp :=
  if c.subscribed then [] else [.subscribeEdge ch db]

/-- `register_slot(ch, X, tok)` (R103). `set` is the write of slot X in the channel's record. -/
def registerSlot (ch : Chan) (set : InCh → InCh) (s : State) : State :=
  let c := s.inAt ch
  (s.setIn ch ((set c).install (debounceOperand s))).emit (installOps ch c (debounceOperand s))

/-- What IN_CLEAR emits (R107). -/
def clearOps (ch : Chan) (c : InCh) : List PinOp := if c.subscribed then [.unsubscribeEdge ch] else []

/-- IN_ON_HIGH (R104). -/
def execInOnHigh (ch : Chan) (tok : Token) (s : State) : Host.Outcome State Fault Refusal :=
  checked .inp ch s (fun s => .next (registerSlot ch (fun c => { c with high := Slot.set tok }) s))

/-- IN_ON_LOW (R105). -/
def execInOnLow (ch : Chan) (tok : Token) (s : State) : Host.Outcome State Fault Refusal :=
  checked .inp ch s (fun s => .next (registerSlot ch (fun c => { c with low := Slot.set tok }) s))

/-- IN_ON_CHANGED (R106). -/
def execInOnChanged (ch : Chan) (tok : Token) (s : State) : Host.Outcome State Fault Refusal :=
  checked .inp ch s (fun s => .next (registerSlot ch (fun c => { c with changed := Slot.set tok }) s))

/-- IN_CLEAR (R107): every field of the channel's record goes back to its reset value. -/
def execInClear (ch : Chan) (s : State) : Host.Outcome State Fault Refusal :=
  checked .inp ch s (fun s => .next ((s.setIn ch InCh.reset).emit (clearOps ch (s.inAt ch))))

/-- `accept(ch)`: the first edge since the subscription, or one at least MIN_INTERVAL after the last accepted one (R108). -/
abbrev InCh.Accepts (c : InCh) (now : Time) : Prop :=
  c.lastValid = false ∨ c.minInterval.toNat ≤ (now - c.lastTs).toNat

/-- The DebounceState after an accepted edge (R109). -/
def InCh.record (c : InCh) (now : Time) (lvl : Bool) : InCh :=
  { c with lastValid := true, lastTs := now, lastLevel := lvl }

/-- The records of an accepted edge: HIGH or LOW first, then CHANGED (R109). -/
def pushEdge (ch : Chan) (c : InCh) (lvl : Bool) (s : State) : State :=
  let s1 := s.pushIf (lvl && c.high.valid) (evrec c.high.tok .inp ch EV_HIGH true)
  let s2 := s1.pushIf (!lvl && c.low.valid) (evrec c.low.tok .inp ch EV_LOW false)
  s2.pushIf c.changed.valid (evrec c.changed.tok .inp ch EV_CHANGED lvl)

/-- `edge(ch, lvl)` (R109). -/
def edge (ch : Chan) (lvl : Bool) (s : State) : State :=
  let c := s.inAt ch
  if s.cfg.HasChannel .inp ch ∧ c.subscribed = true ∧ c.Accepts s.now then
    pushEdge ch c lvl (s.setIn ch (c.record s.now lvl))
  else s

end Sys2Proof.Machine
end

