-- ==== Sys2Proof/Machine/TouchChannel.lean ====
section
/-! DEFINITION. The touch-channel commands and the touch dispatch (43_touch_channel.md). -/

namespace Sys2Proof.Machine

/-- `register_handler(ch, X, tok)` (R111). `set` is the write of slot X in the channel's record. -/
def registerHandler (ch : Chan) (set : TouchCh → TouchCh) (s : State) : State := s.setTouch ch (set (s.touchAt ch))

/-- TOUCH_ON_PRESS (R112). -/
def execTouchOnPress (ch : Chan) (tok : Token) (s : State) : Host.Outcome State Fault Refusal :=
  checked .touch ch s (fun s => .next (registerHandler ch (fun t => { t with pressSlot := Slot.set tok }) s))

/-- TOUCH_ON_RELEASE (R113). -/
def execTouchOnRelease (ch : Chan) (tok : Token) (s : State) : Host.Outcome State Fault Refusal :=
  checked .touch ch s (fun s => .next (registerHandler ch (fun t => { t with releaseSlot := Slot.set tok }) s))

/-- TOUCH_ON_HELD (R114). -/
def execTouchOnHeld (ch : Chan) (tok : Token) (s : State) : Host.Outcome State Fault Refusal :=
  checked .touch ch s (fun s => .next (registerHandler ch (fun t => { t with heldSlot := Slot.set tok }) s))

/-- PRESSED and HELD after an event (R115). -/
def TouchCh.after (t : TouchCh) (ev : TouchEvent) : TouchCh :=
  match ev with
  | .press => { t with pressed := true }
  | .held => { t with held := true }
  | .release => { t with pressed := false, held := false }
  | .none => { t with pressed := false, held := false }

/-- The record of an event, if the slot for it is valid; NONE has no slot (R115). -/
def pushTouch (ch : Chan) (t : TouchCh) (ev : TouchEvent) (s : State) : State :=
  match ev with
  | .press => s.pushIf t.pressSlot.valid (evrec t.pressSlot.tok .touch ch EV_PRESS false)
  | .release => s.pushIf t.releaseSlot.valid (evrec t.releaseSlot.tok .touch ch EV_RELEASE false)
  | .held => s.pushIf t.heldSlot.valid (evrec t.heldSlot.tok .touch ch EV_HELD false)
  | .none => s

/-- `touch(ch, ev)` (R115): the state is updated before the record is pushed. -/
def touchEvent (ch : Chan) (ev : TouchEvent) (s : State) : State :=
  if s.cfg.HasChannel .touch ch then
    let t := s.touchAt ch
    pushTouch ch t ev (s.setTouch ch (t.after ev))
  else s

end Sys2Proof.Machine
end

