-- ==== Sys2Proof/Machine/Dispatch.lean ====
section
/-! DEFINITION. One arm for each command (R67). -/

namespace Sys2Proof.Machine

/-- The meaning of a decoded command, run inside its CMD write (R53, R120). -/
def exec (i : Instr) (s : State) : Host.Outcome State Fault Refusal :=
  match i with
  | .nop => Sys2Proof.Machine.execNop s
  | .write ch v => Sys2Proof.Machine.execWrite ch v s
  | .toggle ch => Sys2Proof.Machine.execToggle ch s
  | .blink ch offp => Sys2Proof.Machine.execBlink ch offp s
  | .pulse ch fl => Sys2Proof.Machine.execPulse ch fl s
  | .fade ch => Sys2Proof.Machine.execFade ch s
  | .stop ch => Sys2Proof.Machine.execStop ch s
  | .stopAll => Sys2Proof.Machine.execStopAll s
  | .inOnHigh ch tok => Sys2Proof.Machine.execInOnHigh ch tok s
  | .inOnLow ch tok => Sys2Proof.Machine.execInOnLow ch tok s
  | .inOnChanged ch tok => Sys2Proof.Machine.execInOnChanged ch tok s
  | .inClear ch => Sys2Proof.Machine.execInClear ch s
  | .touchOnPress ch tok => Sys2Proof.Machine.execTouchOnPress ch tok s
  | .touchOnRelease ch tok => Sys2Proof.Machine.execTouchOnRelease ch tok s
  | .touchOnHeld ch tok => Sys2Proof.Machine.execTouchOnHeld ch tok s

end Sys2Proof.Machine
end

