-- ==== Sys2Proof/Machine/Window.lean ====
section
/-! DEFINITION. The register window (20_memory.md): the register map (R43), what each register reads as (R44 to R58), the read
side effects (R51, R55) and the writes other than CMD (R41, R47, R49, R52). -/

namespace Sys2Proof.Machine

/-- The registers of R43's table. -/
inductive Reg where
  | id | version | param | status | errCode | irqEn | evtCount | evtData
  | arg (i : Fin 4)
  | cmd | carrier | nowLo | nowHi
  | outStat (ch : Chan) | outPeriod (ch : Chan) | outStart (ch : Chan) | outPperiod (ch : Chan)
  | inStat (ch : Chan) | inInterval (ch : Chan) | inLastTs (ch : Chan)
  | touchStat (ch : Chan)
  deriving DecidableEq, Repr

/-- R43's access codes, with the read side effects it marks. -/
inductive Access where
  | ro | roPop | roLatch | rw | w1c | wo
  deriving DecidableEq, Repr

/-- R43's column "access". -/
def Reg.access : Reg → Access
  | .id => .ro
  | .version => .ro
  | .param => .ro
  | .status => .w1c
  | .errCode => .ro
  | .irqEn => .rw
  | .evtCount => .ro
  | .evtData => .roPop
  | .arg _ => .rw
  | .cmd => .wo
  | .carrier => .ro
  | .nowLo => .roLatch
  | .nowHi => .ro
  | .outStat _ => .ro
  | .outPeriod _ => .ro
  | .outStart _ => .ro
  | .outPperiod _ => .ro
  | .inStat _ => .ro
  | .inInterval _ => .ro
  | .inLastTs _ => .ro
  | .touchStat _ => .ro

/-- The common registers by offset (R43). -/
def commonReg (off : Nat) : Option Reg :=
  match off with
  | 0x000 => some .id
  | 0x004 => some .version
  | 0x008 => some .param
  | 0x00C => some .status
  | 0x010 => some .errCode
  | 0x014 => some .irqEn
  | 0x018 => some .evtCount
  | 0x01C => some .evtData
  | 0x020 => some (.arg 0)
  | 0x024 => some (.arg 1)
  | 0x028 => some (.arg 2)
  | 0x02C => some (.arg 3)
  | 0x030 => some .cmd
  | 0x034 => some .carrier
  | 0x038 => some .nowLo
  | 0x03C => some .nowHi
  | _ => none

/-- The channel block of offset `off`: 16 bytes a channel in the OUT and IN blocks (R43). -/
def chanOfBlock (off : BitVec 12) : Chan := off.extractLsb' 4 4

/-- The four words of an output channel's block (R43, R56). -/
def outReg (off : BitVec 12) : Reg :=
  match (off.extractLsb' 0 4).toNat with
  | 0x0 => .outStat (chanOfBlock off)
  | 0x4 => .outPeriod (chanOfBlock off)
  | 0x8 => .outStart (chanOfBlock off)
  | _ => .outPperiod (chanOfBlock off)

/-- The three registers of an input channel's block; its word 0xC is unmapped (R43, R57). -/
def inReg (off : BitVec 12) : Option Reg :=
  match (off.extractLsb' 0 4).toNat with
  | 0x0 => some (.inStat (chanOfBlock off))
  | 0x4 => some (.inInterval (chanOfBlock off))
  | 0x8 => some (.inLastTs (chanOfBlock off))
  | _ => none

/-- The register at an aligned offset, if one occupies it in this build (R40, R43). -/
def regAt (c : Params) (off : BitVec 12) : Option Reg :=
  match (off.extractLsb' 8 4).toNat with
  | 0x0 => commonReg off.toNat
  | 0x1 => if c.HasChannel .out (chanOfBlock off) then some (outReg off) else none
  | 0x2 => if c.HasChannel .inp (chanOfBlock off) then inReg off else none
  | 0x3 =>
    let ch : Chan := off.extractLsb' 2 4
    if off.toNat < 0x340 ∧ c.HasChannel .touch ch then some (.touchStat ch) else none
  | _ => none

/-- ID: the ASCII bytes "PSH1" (R44). -/
def ID_VALUE : Word := 0x50534831

/-- VERSION: edition 7, revision 0 (R45). -/
def VERSION_VALUE : Word := 0x00070000

/-- A flag placed at bit `i` of a word. -/
def flagAt (i : Nat) (b : Bool) : Word := place i (BitVec.ofBool b)

/-- PARAM (R46). -/
def paramWord (c : Params) : Word :=
  place 0 (BitVec.ofNat 8 c.nOut) ||| place 8 (BitVec.ofNat 8 c.nIn) ||| place 16 (BitVec.ofNat 8 c.nTouch) |||
    place 24 (BitVec.ofNat 8 c.evqDepth)

/-- STATUS: BUSY, ERR, EVT_OVF, EVT_PEND and IRQ in bits 0 to 4 (R47). -/
def statusWord (s : State) : Word :=
  flagAt 0 s.busy ||| flagAt 1 s.err ||| flagAt 2 s.evtOvf ||| flagAt 3 s.evtPend ||| flagAt 4 s.irq

/-- OUT_STAT (R56). -/
def outStatWord (o : OutCh) : Word :=
  place 0 o.effect.code ||| flagAt 3 o.blinking ||| flagAt 4 o.pulsing ||| place 5 o.engine.code ||| flagAt 7 o.level |||
    flagAt 8 o.settle ||| place 16 o.duty ||| place 24 o.phase.code

/-- IN_STAT (R57). -/
def inStatWord (c : InCh) : Word :=
  flagAt 0 c.subscribed ||| flagAt 1 c.high.valid ||| flagAt 2 c.low.valid ||| flagAt 3 c.changed.valid |||
    flagAt 4 c.lastLevel ||| flagAt 5 c.lastValid

/-- TOUCH_STAT (R58). -/
def touchStatWord (t : TouchCh) : Word :=
  flagAt 0 t.pressed ||| flagAt 1 t.held ||| flagAt 2 t.pressSlot.valid ||| flagAt 3 t.releaseSlot.valid |||
    flagAt 4 t.heldSlot.valid

/-- What a read of a register returns (R44 to R58). CMD reads 0 (R53), EVT_DATA the head of EVQ or 0 (R51), NOW_HI the
snapshot (R55). -/
def regValue (s : State) : Reg → Word
  | .id => ID_VALUE
  | .version => VERSION_VALUE
  | .param => paramWord s.cfg
  | .status => statusWord s
  | .errCode => s.errCode.code.setWidth 32
  | .irqEn => s.irqEn.setWidth 32
  | .evtCount => (BitVec.ofNat 8 s.evq.length).setWidth 32
  | .evtData => s.evq.headD 0
  | .arg i => s.arg i
  | .cmd => 0
  | .carrier => s.cfg.carrierPeriod
  | .nowLo => s.now.extractLsb' 0 32
  | .nowHi => s.nowHiSnap
  | .outStat ch => outStatWord (s.outAt ch)
  | .outPeriod ch => (s.outAt ch).period
  | .outStart ch => (s.outAt ch).start.extractLsb' 0 32
  | .outPperiod ch => (s.outAt ch).pperiod
  | .inStat ch => inStatWord (s.inAt ch)
  | .inInterval ch => (s.inAt ch).minInterval
  | .inLastTs ch => (s.inAt ch).lastTs.extractLsb' 0 32
  | .touchStat ch => touchStatWord (s.touchAt ch)

/-- What an aligned 32-bit read at `off` returns; an unmapped offset reads 0 (R40). -/
def windowWord (s : State) (off : BitVec 12) : Word :=
  match regAt s.cfg off with
  | some r => regValue s r
  | none => 0

/-- Byte `off + k` of the window holds bits `[8k+7:8k]` of its word (R42). Only a bridge that splits words sees it. -/
def windowByte (s : State) (off : BitVec 12) : BitVec 8 :=
  (windowWord s (off &&& ~~~3#12)).extractLsb' (8 * (off.extractLsb' 0 2).toNat) 8

/-- The side effect of a read: EVT_DATA pops (R51), NOW_LO latches (R55), and no other read has one (R60). -/
def readEffect (s : State) : Reg → State
  | .evtData => { s with evq := s.evq.tail }
  | .nowLo => { s with nowHiSnap := s.now.extractLsb' 32 32 }
  | _ => s

/-- A write to STATUS: W1C of ERR (with ERR_CODE) and of EVT_OVF (R47). -/
def writeStatus (s : State) (w : Word) : State :=
  let s1 := if w.getLsbD 1 then s.clearErr else s
  if w.getLsbD 2 then { s1 with evtOvf := false } else s1

/-- A write to a register other than CMD; a read-only register ignores it (R41). CMD is executed by `cmdWrite`. -/
def writeReg (s : State) (w : Word) : Reg → State
  | .status => writeStatus s w
  | .irqEn => { s with irqEn := w.extractLsb' 0 3 }
  | .arg i => s.setArg i w
  | _ => s

/-- An access the bus accepts: 4 bytes wide at a multiple of 4 (R39). -/
abbrev AccessOk (off : BitVec 12) (width : Nat) : Prop := width = 4 ∧ off.extractLsb' 0 2 = 0

end Sys2Proof.Machine
end

