-- ==== Sys2Proof/Machine/Bus.lean ====
section
/-! DEFINITION. Host accesses (R39, R40, R53) and the six kinds of transition (R5). -/

namespace Sys2Proof.Machine

/-- A CMD write of word `w`: `execute(w)` (R53, R120). BUSY comes before decoding, for a command by its meaning and for any
other word by `refuseWord` (log 9). -/
def cmdWrite (w : Word) (s : State) : Host.Outcome State Fault Refusal :=
  match decode w with
  | .ok i => exec i s
  | .error e => refuseWord e s

/-- A write of an accepted access at `off`; unmapped offsets ignore it (R40). -/
def writeAt (off : BitVec 12) (w : Word) (s : State) : Host.Outcome State Fault Refusal :=
  match regAt s.cfg off with
  | some .cmd => cmdWrite w s
  | some r => .next (writeReg s w r)
  | none => .next s

/-- The state after a read of an accepted access at `off`, less the response. -/
def readAt (off : BitVec 12) (s : State) : State :=
  match regAt s.cfg off with
  | some r => readEffect s r
  | none => s

/-- A bus error: no data, and no change to the PSB (R39). -/
def busError (s : State) : State := { s with resp := .error }

/-- A host register read (R5, R39): the value is that before the read's side effect. -/
def hostRead (off : BitVec 12) (width : Nat) (s : State) : Host.Outcome State Fault Refusal :=
  if AccessOk off width then .next { readAt off s with resp := .data (windowWord s off) } else .next (busError s)

/-- A host register write, which includes command execution (R5, R39, R53). -/
def hostWrite (off : BitVec 12) (width : Nat) (w : Word) (s : State) : Host.Outcome State Fault Refusal :=
  if AccessOk off width then writeAt off w { s with resp := .done } else .next (busError s)

/-- The reset transition: every piece of PSB state to its reset value, nothing emitted (R135, R136). The build, what the
agents do next and what has been observed are not PSB state (R13). -/
def resetPsb (s : State) : State :=
  { State.resetOf s.cfg with schedule := s.schedule, port := s.port, resp := s.resp }

/-- One transition (R5). -/
def transition (t : Transition) (s : State) : Host.Outcome State Fault Refusal :=
  match t with
  | .read off width => hostRead off width s
  | .write off width w => hostWrite off width w s
  | .timeStep => timeStep s
  | .edge ch lvl => .next (edge ch lvl s)
  | .touch ch ev => .next (touchEvent ch ev s)
  | .reset => .next (resetPsb s)

/-- The transition that comes next: the first scheduled one, or else a time step, since time steps occur without end
(R77, log 2). -/
def nextTransition (s : State) : Transition := s.schedule.headD .timeStep

/-- The schedule with its first transition taken. -/
def takeScheduled (s : State) : State := { s with schedule := s.schedule.tail }

/-- The offset of CMD (R43). -/
def CMD_OFFSET : BitVec 12 := 0x030

/-- The CMD write that puts a command word into the PSB: the only way a command reaches it (R53, R63). -/
def cmdTransition (w : Word) : Transition := .write CMD_OFFSET 4 w

end Sys2Proof.Machine
end

