-- ==== Sys2Proof/Machine/Step.lean ====
section
/-! DEFINITION. One step of the machine: the next transition (R5). -/

namespace Sys2Proof.Machine

/-- One step: the next transition is taken from the schedule and made. -/
def step (s : State) : Host.Outcome State Fault Refusal := transition (nextTransition s) (takeScheduled s)

/-- `s` with a CMD write of the table's word scheduled first, so that the next step runs exactly it. The PSB fetches nothing
(R17, R63): a command comes from the host (log 3). -/
def State.withFetchWord (s : State) (nbits w : Nat) : State :=
  { s with schedule := cmdTransition (tableWord nbits w) :: s.schedule }

end Sys2Proof.Machine
end

