-- ==== Sys2Proof/Machine/Asm.lean ====
section
/-! DEFINITION. The host's side: the command syntax of R72 and R73 as the register writes it assembles to, and the boot and
shutdown sequences of R138 and R146. -/

namespace Sys2Proof.Machine

/-- A line of R72's syntax: a command with its operands, a pseudo-command of R73, or a host-side directive. An operand that
a keyword form leaves out is `none`. -/
inductive AsmLine where
  | nop
  | write (ch : Chan) (v : Bool)
  | toggle (ch : Chan)
  | blink (ch : Chan) (on : Word) (off : Option Word)
  | pulse (ch : Chan) (tOn tOff on off : Option Word)
  | fade (ch : Chan) (startDuty endDuty duration : Word)
  | stop (ch : Chan)
  | stopAll
  | inOnHigh (ch : Chan) (tok : Token) (debounce : Word)
  | inOnLow (ch : Chan) (tok : Token) (debounce : Word)
  | inOnChanged (ch : Chan) (tok : Token) (debounce : Word)
  | inClear (ch : Chan)
  | touchOnPress (ch : Chan) (tok : Token)
  | touchOnRelease (ch : Chan) (tok : Token)
  | touchOnHeld (ch : Chan) (tok : Token)
  /-- ON (R73). -/
  | on (ch : Chan)
  /-- OFF (R73). -/
  | off (ch : Chan)
  /-- SHUTDOWN (R73). -/
  | shutdown
  /-- WR off, val. -/
  | wr (off : BitVec 12) (val : Word)
  /-- RD off. -/
  | rd (off : BitVec 12)
  /-- STEP n. -/
  | step (n : Nat)
  /-- EDGE ch, lvl. -/
  | edge (ch : Chan) (lvl : Bool)
  /-- TCH ch, ev. -/
  | tch (ch : Chan) (ev : TouchEvent)
  deriving DecidableEq, Repr

/-- `MemWrite(0x020 + 4*i, 4, v)`, if the operand is present (R72). -/
def writeArg (i : Fin 4) (v : Option Word) : List Transition :=
  match v with
  | some v => [.write (BitVec.ofNat 12 (0x020 + 4 * i.val)) 4 v]
  | none => []

/-- The FL bits of PULSE: which operands are present (R66). -/
def presence (tOn tOff on off : Option Word) : BitVec 4 :=
  place 0 (BitVec.ofBool tOn.isSome) ||| place 1 (BitVec.ofBool tOff.isSome) ||| place 2 (BitVec.ofBool on.isSome) |||
    place 3 (BitVec.ofBool off.isSome)

/-- `MemWrite(0x030, 4, w)` of a command's word (R72). -/
def writeCmd (i : Instr) : List Transition := [cmdTransition (encode i)]

/-- The register writes and other transitions a line stands for: the arguments in the order ARG0 to ARG3, then CMD (R72). -/
def assemble : AsmLine → List Transition
  | .nop => writeCmd .nop
  | .write ch v => writeCmd (.write ch v)
  | .toggle ch => writeCmd (.toggle ch)
  | .blink ch on off => writeArg 0 (some on) ++ writeArg 1 off ++ writeCmd (.blink ch off.isSome)
  | .pulse ch tOn tOff on off =>
    writeArg 0 tOn ++ writeArg 1 tOff ++ writeArg 2 on ++ writeArg 3 off ++
      writeCmd (.pulse ch (presence tOn tOff on off))
  | .fade ch startDuty endDuty duration =>
    writeArg 0 (some startDuty) ++ writeArg 1 (some endDuty) ++ writeArg 2 (some duration) ++ writeCmd (.fade ch)
  | .stop ch => writeCmd (.stop ch)
  | .stopAll => writeCmd .stopAll
  | .inOnHigh ch tok debounce => writeArg 0 (some debounce) ++ writeCmd (.inOnHigh ch tok)
  | .inOnLow ch tok debounce => writeArg 0 (some debounce) ++ writeCmd (.inOnLow ch tok)
  | .inOnChanged ch tok debounce => writeArg 0 (some debounce) ++ writeCmd (.inOnChanged ch tok)
  | .inClear ch => writeCmd (.inClear ch)
  | .touchOnPress ch tok => writeCmd (.touchOnPress ch tok)
  | .touchOnRelease ch tok => writeCmd (.touchOnRelease ch tok)
  | .touchOnHeld ch tok => writeCmd (.touchOnHeld ch tok)
  | .on ch => writeCmd (.write ch true)
  | .off ch => writeCmd (.write ch false)
  | .shutdown => writeCmd .stopAll
  | .wr off val => [.write off 4 val]
  | .rd off => [.read off 4]
  | .step n => List.replicate n .timeStep
  | .edge ch lvl => [.edge ch lvl]
  | .tch ch ev => [.touch ch ev]

/-- A program of R72's syntax as a schedule. -/
def assembleAll (p : List AsmLine) : List Transition := p.flatMap assemble

/-- `s` with a program scheduled before everything else. -/
def State.withProgram (s : State) (p : List AsmLine) : State := { s with schedule := assembleAll p ++ s.schedule }

/-- Steps 1 to 3 of the boot order (R138): read ID, VERSION and PARAM, write STOP_ALL, write IRQ_EN. Step 4, registering
the slots, is the program's. -/
def bootSequence (irqEn : Word) : List AsmLine := [.rd 0x000, .rd 0x004, .rd 0x008, .stopAll, .wr 0x014 irqEn]

/-- The channels of a unit with `n` channels, in ascending order. -/
def channels (n : Nat) : List Chan := (List.range n).map (BitVec.ofNat 4)

/-- The PSB's part of the shutdown order (R146): STOP_ALL, IN_CLEAR for each subscribed input, then draining EVQ. -/
def shutdownSequence (s : State) : List AsmLine :=
  [.shutdown] ++ ((channels s.inp.length).filter (fun ch => (s.inAt ch).subscribed)).map .inClear ++
    List.replicate s.evq.length (.rd 0x01C)

end Sys2Proof.Machine
end

