-- ==== Sys2Proof/Safety.lean ====
section
/-! DEFINITION. What counts as a safe state and a safe run (R27, R29, R32, R33, R118, R124), what the pins have been told (R23 to
R26), and the frames the claims are stated in. -/

namespace Sys2Proof.Machine

/-! ### Frames -/

/-- `t` is `s` but for output channel `ch` and what was appended to the port: every other output channel, and every other
piece of state, is unchanged. -/
def OutFrame (s t : State) (ch : Chan) : Prop :=
  t = { s with out := t.out, port := t.port } ∧ t.out.length = s.out.length ∧
    (∀ k : Nat, k ≠ ch.toNat → t.out[k]? = s.out[k]?) ∧ s.port <+: t.port

/-- Likewise for input channel `ch`. -/
def InFrame (s t : State) (ch : Chan) : Prop :=
  t = { s with inp := t.inp, port := t.port } ∧ t.inp.length = s.inp.length ∧
    (∀ k : Nat, k ≠ ch.toNat → t.inp[k]? = s.inp[k]?) ∧ s.port <+: t.port

/-- `t` is `s` but for touch channel `ch`; nothing is emitted. -/
def TouchFrame (s t : State) (ch : Chan) : Prop :=
  t = { s with touch := t.touch } ∧ t.touch.length = s.touch.length ∧
    (∀ k : Nat, k ≠ ch.toNat → t.touch[k]? = s.touch[k]?)

/-- What a transition from `s` to `t` emitted: the port's new entries. -/
def emitted (s t : State) : List PortEntry := t.port.drop s.port.length

/-- The operations among `l` on output channel `ch` (the kinds 0 to 4 of R130). -/
def outOps (ch : Chan) (l : List PortEntry) : List PinOp :=
  (l.map (fun e => e.op)).filter (fun op => decide (op.chan = ch ∧ op.kind.toNat ≤ 4))

/-- The operations among `l` on input channel `ch` (the kinds 5 and 6 of R130). -/
def inOps (ch : Chan) (l : List PortEntry) : List PinOp :=
  (l.map (fun e => e.op)).filter (fun op => decide (op.chan = ch ∧ 5 ≤ op.kind.toNat))

/-! ### Hypotheses of the command rules -/

/-- A command on output channel `ch` passes R120's checks. -/
abbrev OutReady (s : State) (ch : Chan) : Prop :=
  s.busy = false ∧ s.cfg.HasChannel .out ch ∧ s.out.length = s.cfg.nOut

/-- A command on input channel `ch` passes R120's checks. -/
abbrev InReady (s : State) (ch : Chan) : Prop :=
  s.busy = false ∧ s.cfg.HasChannel .inp ch ∧ s.inp.length = s.cfg.nIn

/-- A command on touch channel `ch` passes R120's checks. -/
abbrev TouchReady (s : State) (ch : Chan) : Prop :=
  s.busy = false ∧ s.cfg.HasChannel .touch ch ∧ s.touch.length = s.cfg.nTouch

/-- What the teardown of a running task emits: R80's `CHANGE_DUTY(ch, 0)`, for a pulse only. -/
def teardownOps (ch : Chan) (o : OutCh) : List PinOp := if o.engine = .pulse then [.changeDuty ch 0] else []

/-! ### What the pins have been told -/

/-- An output pin as its PWM and digital level stand after the operations the PSB emitted to it. -/
structure PinView where
  level : Bool
  duty : Duty
  period : Word
  pwm : Bool
  deriving DecidableEq, Repr

/-- The effect of one operation on an output pin (R24, R25, R26, R130). -/
def PinView.apply (p : PinView) : PinOp → PinView
  | .writeDigital _ level => { p with level := level }
  | .setPwm _ period duty => { p with period := period, duty := duty, pwm := true }
  | .changeDuty _ duty => { p with duty := duty }
  | .changeFreq _ period => { p with period := period }
  | .stopPwm _ => { p with pwm := false }
  | .subscribeEdge _ _ => p
  | .unsubscribeEdge _ => p

/-- What the PSB's record says of its pin: LEVEL, DUTY, PERIOD, and BLINKING for "the PWM runs" (R23 to R26). -/
def OutCh.view (o : OutCh) : PinView := { level := o.level, duty := o.duty, period := o.period, pwm := o.blinking }

/-- The effect of one operation on an input pin's subscription (R33). -/
def applySub (b : Bool) : PinOp → Bool
  | .subscribeEdge _ _ => true
  | .unsubscribeEdge _ => false
  | _ => b

/-! ### The invariant -/

/-- What R21 to R32 say of an output record in every reachable state. -/
structure OutCh.Inv (o : OutCh) : Prop where
  /-- R32 (1). -/
  pulse_iff : o.engine = .pulse ↔ o.effect = .pulsing
  /-- R32 (2). -/
  fade_fading : o.engine = .fade → o.effect = .fading
  /-- R32 (3). -/
  settle_writing : o.settle = true → o.effect = .writing ∧ o.engine = .none
  /-- R25. -/
  duty_le : o.duty.toNat ≤ 100
  /-- R30. -/
  fStart_le : o.fStart.toNat ≤ 100
  /-- R30. -/
  fEnd_le : o.fEnd.toNat ≤ 100
  /-- R29: PPERIOD is the sum of the four durations. -/
  pperiod_eq : o.pperiod.toNat = o.tOn.toNat + o.on.toNat + o.tOff.toNat + o.off.toNat
  /-- R29: a running pulse has a transition, so a period. -/
  pulse_pos : o.engine = .pulse → 0 < o.tOn.toNat + o.tOff.toNat

/-- An empty slot has token 0 (R34, R37, R107). -/
abbrev Slot.Inv (x : Slot) : Prop := x.valid = false → x.tok = 0

/-- What R33 to R35 and R107 say of an input record in every reachable state. -/
structure InCh.Inv (c : InCh) : Prop where
  high : c.high.Inv
  low : c.low.Inv
  changed : c.changed.Inv
  /-- An Idle channel stands at its reset values. -/
  idle : c.subscribed = false → c = InCh.reset
  /-- A subscription is installed with a slot (R103). -/
  slot_of_subscribed : c.subscribed = true → c.high.valid = true ∨ c.low.valid = true ∨ c.changed.valid = true
  /-- Without an accepted edge the debounce state is at its reset values. -/
  fresh : c.lastValid = false → c.lastTs = 0 ∧ c.lastLevel = false

/-- What R37 says of a touch record in every reachable state. -/
structure TouchCh.Inv (t : TouchCh) : Prop where
  press : t.pressSlot.Inv
  release : t.releaseSlot.Inv
  held : t.heldSlot.Inv

/-- SRC of an event record (R124). -/
def recSrc (r : Word) : BitVec 4 := r.extractLsb' 12 4

/-- CH of an event record (R124). -/
def recCh (r : Word) : Chan := r.extractLsb' 8 4

/-- EV of an event record (R124). -/
def recEv (r : Word) : BitVec 4 := r.extractLsb' 4 4

/-- LVL of an event record (R124). -/
def recLvl (r : Word) : Bool := r.getLsbD 0

/-- TOK of an event record (R124). -/
def recTok (r : Word) : Token := r.extractLsb' 16 16

/-- A word that R124 allows as an event record in the build. -/
structure RecordOk (c : Params) (r : Word) : Prop where
  /-- Bits 3:1 are 0. -/
  zeros : r.extractLsb' 1 3 = 0
  /-- EV is 0, 1 or 2. -/
  ev : (recEv r).toNat ≤ 2
  /-- SRC is IN or TOUCH, with a channel of that unit; LVL is 1 for HIGH, 0 for LOW and 0 for every touch event. -/
  src :
    (recSrc r = 0 ∧ (recCh r).toNat < c.nIn ∧ (recEv r = EV_HIGH → recLvl r = true) ∧ (recEv r = EV_LOW → recLvl r = false)) ∨
    (recSrc r = 1 ∧ (recCh r).toNat < c.nTouch ∧ recLvl r = false)

/-- The invariant of every reachable state. -/
structure State.Inv (s : State) : Prop where
  /-- R6. -/
  legal : s.cfg.Legal
  /-- R13. -/
  out_length : s.out.length = s.cfg.nOut
  /-- R13. -/
  inp_length : s.inp.length = s.cfg.nIn
  /-- R13. -/
  touch_length : s.touch.length = s.cfg.nTouch
  /-- R20. -/
  evq_length : s.evq.length ≤ s.cfg.evqDepth
  /-- R18: ERR_CODE names an error exactly when ERR is set. -/
  err_iff : s.err = true ↔ s.errCode ≠ .none
  out_inv : ∀ o ∈ s.out, o.Inv
  inp_inv : ∀ c ∈ s.inp, c.Inv
  touch_inv : ∀ t ∈ s.touch, t.Inv
  evq_ok : ∀ r ∈ s.evq, RecordOk s.cfg r
  /-- R27: at most one channel settles. -/
  one_settle : ∀ i j : Nat, ∀ o p : OutCh, s.out[i]? = some o → s.out[j]? = some p → o.settle = true → p.settle = true → i = j
  /-- R78: a settle delay ends 1 to 20 time units from now. -/
  settle_soon : ∀ o ∈ s.out, o.settle = true → 1 ≤ (o.settleDl - s.now).toNat ∧ (o.settleDl - s.now).toNat ≤ 20

/-- A state the machine can reach: from the reset of a legal build, whatever its agents do (R5). -/
inductive Reachable : State → Prop where
  | reset (cfg : Params) (l : List Transition) (h : cfg.Legal) : Reachable { State.resetOf cfg with schedule := l }
  | step (s t : State) (h : Reachable s) (hs : Machine.step s = .next t) : Reachable t

/-- A safe run: `n` steps from `s`, none of which stops, to a state that keeps the invariant (R118). -/
def SafeRun (n : Nat) (s : State) : Prop := ∃ t, Sys2Proof.core.run n s = .next t ∧ t.Inv

/-- The run of `n` time steps with nothing else happening. -/
def timeRun (n : Nat) (s : State) : Host.Outcome State Fault Refusal := Sys2Proof.core.run n { s with schedule := [] }

end Sys2Proof.Machine
end

