-- ==== Sys2Proof/Certificates/Slice0/Obligations.lean ====
section
/-! DEFINITION. The statements for the provers. A frame says of a command what it leaves unchanged; the PSB has no memory
besides its registers (R38), so a frame names state fields. Three fields are the model's own, and where a statement names one
it rests there on a log entry, not on a rule: `schedule`, what the agents do next (log 2), `resp`, the bus's answer to the last
host access (log 4), and `port`, the emitted records with their NOW (log 5). `timeRun` is time steps with nothing between. -/

open Sys2Proof Sys2Proof.Machine

/-! ### Encoding (R64 to R74) -/

/-- R64, R67: the decoder gives back every command from its word, whatever its channel, flags and token. -/
def Obligations.DecodeOfEncode : Prop := ∀ i : Instr, decode (encode i) = .ok i

/-- R64, R67: a word that decodes to a command is that command's word, so no bit of a word is ignored. -/
def Obligations.EncodeOfDecode : Prop := ∀ (w : Word) (i : Instr), decode w = .ok i → encode i = w

/-- R67: a word is a command exactly when it matches a row of the opcode map, and then the row is that command's; and no word
matches two rows. -/
def Obligations.CommandsAreTheOpcodeMap : Prop :=
  (∀ (w : Word) (i : Instr), decode w = .ok i → (rowOf i).Matches w) ∧
  (∀ (w : Word) (r : OpcodeRow), r ∈ opcodeRows → r.Matches w → ∃ i, decode w = .ok i ∧ rowOf i = r) ∧
  (∀ (w : Word) (r q : OpcodeRow), r ∈ opcodeRows → q ∈ opcodeRows → r.Matches w → q.Matches w → r = q)

/-- R69: exactly the opcodes 0x08-0x0F, 0x14-0x1F and 0x23-0xFF are illegal, and a CMD write with one of them is refused
with ILLEGAL_OPCODE (while not BUSY, whose check comes first) (`resp`: log 4). -/
def Obligations.IllegalOpcodeIsRefused : Prop :=
  ∀ w : Word,
    ((0x08 ≤ (opOf w).toNat ∧ (opOf w).toNat ≤ 0x0F) ∨ (0x14 ≤ (opOf w).toNat ∧ (opOf w).toNat ≤ 0x1F) ∨
        0x23 ≤ (opOf w).toNat ↔
      decode w = .error .illegalOpcode) ∧
    ∀ s : State, s.busy = false → decode w = .error .illegalOpcode →
      hostWrite CMD_OFFSET 4 w s = .next ({ s with resp := .done }.raise .illegalOpcode)

/-- R70: a CMD write of a legal opcode whose must-be-zero fields are not all zero is refused with RESERVED_FIELD, and does
nothing else. The must-be-zero fields of a row are the bits of its mask above the opcode (`resp`: log 4). -/
def Obligations.ReservedFieldIsRefused : Prop :=
  ∀ (s : State) (w : Word) (r : OpcodeRow), s.busy = false → r ∈ opcodeRows → opOf w = opOf r.pattern → ¬ r.Matches w →
    hostWrite CMD_OFFSET 4 w s = .next ({ s with resp := .done }.raise .reservedField)

/-- R71: 0x00000000 is the only word that decodes to NOP. -/
def Obligations.ZeroIsTheOnlyNop : Prop := ∀ w : Word, decode w = .ok .nop ↔ w = 0x00000000

/-- R74: the worked encodings decode to the commands they stand for. -/
def Obligations.WorkedWordsDecode : Prop :=
  decode 0x00000000 = .ok .nop ∧ decode 0x00001101 = .ok (.write 1 true) ∧ decode 0x00000001 = .ok (.write 0 false) ∧
  decode 0x00000202 = .ok (.toggle 2) ∧ decode 0x00000003 = .ok (.blink 0 false) ∧
  decode 0x00001003 = .ok (.blink 0 true) ∧ decode 0x00000004 = .ok (.pulse 0 0) ∧ decode 0x0000F004 = .ok (.pulse 0 15) ∧
  decode 0x0000F104 = .ok (.pulse 1 15) ∧ decode 0x00000005 = .ok (.fade 0) ∧ decode 0x00000306 = .ok (.stop 3) ∧
  decode 0x00000007 = .ok .stopAll ∧ decode 0x00AB0010 = .ok (.inOnHigh 0 0x00AB) ∧
  decode 0x00000013 = .ok (.inClear 0) ∧ decode 0x12340520 = .ok (.touchOnPress 5 0x1234)

/-! ### The step (R5, R53) -/

/-- R5, R53: when the next transition is an accepted CMD write, the step is `exec` of the command the word decodes to, at the
state whose schedule has moved past the write and whose bus response says the write completed; a word that is no command is
refused there. `withFetchWord` schedules such a write. A transition of any of the six kinds is what the other statements say of
that kind, at the state whose schedule has moved past it, and with nothing scheduled the step is a time step. That transitions
come from a schedule, and how a word is placed there, are the model's choice (logs 2 and 3), and so is `resp` (log 4). -/
def Obligations.CmdWriteStepRunsTheCommand : Prop :=
  (∀ (s : State) (w : Word) (l : List Transition) (i : Instr), s.schedule = .write 0x030 4 w :: l → decode w = .ok i →
    step s = exec i { s with schedule := l, resp := .done }) ∧
  (∀ (s : State) (w : Word) (l : List Transition) (e : DecodeError), s.schedule = .write 0x030 4 w :: l →
    decode w = .error e → step s = refuseWord e { s with schedule := l, resp := .done }) ∧
  (∀ (s : State) (w : Word) (i : Instr), decode w = .ok i →
    step (s.withFetchWord 32 w.toNat) = exec i { s with resp := .done }) ∧
  (∀ (s : State) (l : List Transition),
    (∀ off width, s.schedule = .read off width :: l → step s = hostRead off width { s with schedule := l }) ∧
    (∀ off width w, s.schedule = .write off width w :: l → step s = hostWrite off width w { s with schedule := l }) ∧
    (s.schedule = .timeStep :: l → step s = timeStep { s with schedule := l }) ∧
    (∀ ch lvl, s.schedule = .edge ch lvl :: l → step s = .next (edge ch lvl { s with schedule := l })) ∧
    (∀ ch ev, s.schedule = .touch ch ev :: l → step s = .next (touchEvent ch ev { s with schedule := l })) ∧
    (s.schedule = .reset :: l → step s = .next (resetPsb { s with schedule := l }))) ∧
  ∀ s : State, s.schedule = [] → step s = timeStep s

/-! ### Command checks and refusals (R119 to R122, R140) -/

/-- R119, R120, R140: while BUSY = 1 every command, and every word that is no command, is refused with BUSY. -/
def Obligations.BusyRefusesEveryCommand : Prop :=
  ∀ s : State, s.busy = true →
    (∀ i : Instr, exec i s = .next (s.raise .busy)) ∧ ∀ w : Word, cmdWrite w s = .next (s.raise .busy)

/-- R120: a command whose channel is not in the build is refused with BAD_CHANNEL, before its operands are looked at. -/
def Obligations.BadChannelIsRefused : Prop :=
  ∀ (s : State) (i : Instr), s.busy = false → i.wellFormed s.cfg = false → exec i s = .next (s.raise .badChannel)

/-- R121, R122: a command answers a next state, and either it is refused, and then only ERR and ERR_CODE change, ERR_CODE only
if ERR was 0; or it leaves both as they were. ERR does not matter to what a command does. -/
def Obligations.CommandsRunOrAreRefusedPrecisely : Prop :=
  ∀ (i : Instr) (s : State), ∃ t : State, exec i s = .next t ∧
    ((∃ code : ErrCode, code ≠ .none ∧ t = { s with err := true, errCode := if s.err then s.errCode else code }) ∨
      (t.err = s.err ∧ t.errCode = s.errCode ∧
        ∀ (e : Bool) (c : ErrCode), exec i { s with err := e, errCode := c } = .next { t with err := e, errCode := c }))

/-- R121: over two refusals the first code is kept; a clear between them lets the second one in (R47, R122). -/
def Obligations.FirstErrorWins : Prop :=
  ∀ (s : State) (a b : ErrCode), s.err = false →
    (s.raise a).errCode = a ∧ ((s.raise a).raise b).errCode = a ∧ ((s.raise a).clearErr.raise b).errCode = b ∧
    ((s.raise a).raise b).err = true

/-! ### Timed-output commands (R91 to R102) -/

/-- R101: NOP changes no state and emits nothing. -/
def Obligations.NopChangesNothing : Prop := ∀ s : State, s.busy = false → exec .nop s = .next s

/-- R91, R94: WRITE tears the running task down, forces duty 100, stops the PWM, and then writes the level at once, or, from a
blinking state into level 1, starts the settle delay of 20 time units. Nothing but the channel and the port changes. -/
def Obligations.WriteStopsPwmThenWrites : Prop :=
  ∀ (s : State) (ch : Chan) (v : Bool), OutReady s ch →
    ∃ t : State, exec (.write ch v) s = .next t ∧ OutFrame s t ch ∧
      ((s.outAt ch).blinking = true ∧ v = true →
        emitted s t = stamp s.now (teardownOps ch (s.outAt ch) ++ [.changeDuty ch 100, .stopPwm ch]) ∧
        t.outAt ch = { s.outAt ch with
          engine := .none, effect := .writing, duty := 100, settle := true, settleDl := s.now + 20 }) ∧
      (¬ ((s.outAt ch).blinking = true ∧ v = true) →
        emitted s t =
          stamp s.now (teardownOps ch (s.outAt ch) ++ [.changeDuty ch 100, .stopPwm ch, .writeDigital ch v]) ∧
        t.outAt ch = { s.outAt ch with engine := .none, effect := .writing, duty := 100, level := v })

/-- R91, R95: TOGGLE completes as WRITE 0 while blinking and as WRITE of the other level else; it never starts a settle delay.
The record is given in full, and nothing but the channel and the port changes. -/
def Obligations.ToggleWritesTheOtherLevel : Prop :=
  ∀ (s : State) (ch : Chan), OutReady s ch →
    ∃ t : State, exec (.toggle ch) s = .next t ∧ OutFrame s t ch ∧
      t.outAt ch = { s.outAt ch with
        engine := .none, effect := .writing, duty := 100,
        level := if (s.outAt ch).blinking then false else !(s.outAt ch).level } ∧
      emitted s t =
        stamp s.now (teardownOps ch (s.outAt ch) ++ [.changeDuty ch 100, .stopPwm ch, .writeDigital ch (t.outAt ch).level])

/-- R10, R92, R96: BLINK with an accepted period sets PERIOD to `on + off` and DUTY to `rdiv(100*on, on + off)`, where `off` is
ARG[1] if OFFP and ARG[0] else. Over a running timed effect it retunes the PWM, period first; else it starts it. `rdiv` is what
R10 says: the quotient, or one more above the tie, and at the tie the even one of the two or the upper one. -/
def Obligations.BlinkSetsPeriodAndDuty : Prop :=
  (∀ (r : Rounding) (n d : Nat), 0 < d →
    (2 * (n % d) < d → rdiv r n d = n / d) ∧
    (d < 2 * (n % d) → rdiv r n d = n / d + 1) ∧
    (2 * (n % d) = d → r = .halfEven → rdiv r n d = n / d + n / d % 2) ∧
    (2 * (n % d) = d → r = .halfUp → rdiv r n d = n / d + 1)) ∧
  ∀ (s : State) (ch : Chan) (offp : Bool), OutReady s ch → BlinkPeriodOk s.arg0 (if offp then s.arg1 else s.arg0) →
    ∃ t : State, exec (.blink ch offp) s = .next t ∧ OutFrame s t ch ∧
      (t.outAt ch).period.toNat = s.arg0.toNat + (if offp then s.arg1 else s.arg0).toNat ∧
      (t.outAt ch).duty.toNat =
        rdiv s.cfg.rounding (100 * s.arg0.toNat) (s.arg0.toNat + (if offp then s.arg1 else s.arg0).toNat) ∧
      t.outAt ch = { s.outAt ch with
        engine := .none, effect := .blinking, period := (t.outAt ch).period, duty := (t.outAt ch).duty } ∧
      emitted s t = stamp s.now (teardownOps ch (s.outAt ch) ++
        (if (s.outAt ch).blinking then [.changeFreq ch (t.outAt ch).period, .changeDuty ch (t.outAt ch).duty]
          else [.setPwm ch (t.outAt ch).period (t.outAt ch).duty]))

/-- R102 (2): a BLINK over a running timed effect never starts the PWM again: none of its operations is a SET_PWM, of any
channel, period and duty. The records of the seven operations are those of R130: KIND in 71:68, CH in 67:64, A in 63:32, B in
31:0. -/
def Obligations.BlinkInPlaceNeverStartsPwm : Prop :=
  (∀ (s t : State) (ch : Chan) (offp : Bool), (s.outAt ch).blinking = true → exec (.blink ch offp) s = .next t →
    ∀ e ∈ emitted s t, e.op.kind ≠ 1 ∧ ∀ (c : Chan) (period : Word) (duty : Duty), e.op ≠ .setPwm c period duty) ∧
  (∀ op : PinOp, op.record.extractLsb' 68 4 = op.kind ∧ op.record.extractLsb' 64 4 = op.chan ∧
    op.record.extractLsb' 32 32 = op.fieldA ∧ op.record.extractLsb' 0 32 = op.fieldB) ∧
  ∀ (c : Chan) (level : Bool) (v : Word) (duty : Duty),
    ((PinOp.writeDigital c level).kind = 0 ∧ (PinOp.writeDigital c level).chan = c ∧
      (PinOp.writeDigital c level).fieldA = (if level then 1 else 0) ∧ (PinOp.writeDigital c level).fieldB = 0) ∧
    ((PinOp.setPwm c v duty).kind = 1 ∧ (PinOp.setPwm c v duty).chan = c ∧ (PinOp.setPwm c v duty).fieldA = v ∧
      (PinOp.setPwm c v duty).fieldB.toNat = duty.toNat) ∧
    ((PinOp.changeDuty c duty).kind = 2 ∧ (PinOp.changeDuty c duty).chan = c ∧
      (PinOp.changeDuty c duty).fieldA.toNat = duty.toNat ∧ (PinOp.changeDuty c duty).fieldB = 0) ∧
    ((PinOp.changeFreq c v).kind = 3 ∧ (PinOp.changeFreq c v).chan = c ∧ (PinOp.changeFreq c v).fieldA = v ∧
      (PinOp.changeFreq c v).fieldB = 0) ∧
    ((PinOp.stopPwm c).kind = 4 ∧ (PinOp.stopPwm c).chan = c ∧ (PinOp.stopPwm c).fieldA = 0 ∧
      (PinOp.stopPwm c).fieldB = 0) ∧
    ((PinOp.subscribeEdge c v).kind = 5 ∧ (PinOp.subscribeEdge c v).chan = c ∧ (PinOp.subscribeEdge c v).fieldA = v ∧
      (PinOp.subscribeEdge c v).fieldB = 0) ∧
    ((PinOp.unsubscribeEdge c).kind = 6 ∧ (PinOp.unsubscribeEdge c).chan = c ∧ (PinOp.unsubscribeEdge c).fieldA = 0 ∧
      (PinOp.unsubscribeEdge c).fieldB = 0)

/-- R66, R97: PULSE with a nonzero transition and an accepted period tears down the running task, makes the PWM run at
CARRIER_PERIOD, loads the resolved profile, starts the pulse engine at NOW, and applies the first duty at once: 100 for
`tOn = 0`, else 0, in the RISING phase. -/
def Obligations.PulseStartsTheEngine : Prop :=
  ∀ (s : State) (ch : Chan) (fl : BitVec 4) (p : Profile), OutReady s ch →
    p.tOn = (if fl.getLsbD 0 then s.arg0 else 500) → p.tOff = (if fl.getLsbD 1 then s.arg1 else p.tOn) →
    p.on = (if fl.getLsbD 2 then s.arg2 else p.tOn) → p.off = (if fl.getLsbD 3 then s.arg3 else p.tOn) →
    ¬ p.Delegates → PulsePeriodOk p →
    ∃ t : State, exec (.pulse ch fl) s = .next t ∧ OutFrame s t ch ∧
      (t.outAt ch).pperiod.toNat = p.sum ∧
      t.outAt ch = { s.outAt ch with
        engine := .pulse, effect := .pulsing, start := s.now, tOn := p.tOn, on := p.on, tOff := p.tOff, off := p.off,
        period := s.cfg.carrierPeriod, phase := .rising, duty := if p.tOn = 0 then 100 else 0,
        pperiod := (t.outAt ch).pperiod } ∧
      emitted s t = stamp s.now (teardownOps ch (s.outAt ch) ++
        (if (s.outAt ch).blinking = false then [.setPwm ch s.cfg.carrierPeriod 0]
          else if (s.outAt ch).period = s.cfg.carrierPeriod then [] else [.changeFreq ch s.cfg.carrierPeriod]) ++
        [.changeDuty ch (if p.tOn = 0 then 100 else 0)])

/-- R97, R102 (4): a PULSE whose transitions resolve to 0 does what a BLINK of its `on` and `off` does: it completes with ENGINE
NONE and the profile fields as they were, for an accepted blink period. -/
def Obligations.PulseWithoutTransitionsBlinks : Prop :=
  ∀ (s : State) (ch : Chan) (fl : BitVec 4), OutReady s ch → (pulseProfile s fl).Delegates →
    BlinkPeriodOk (pulseProfile s fl).on (pulseProfile s fl).off →
    ∃ t : State, exec (.pulse ch fl) s = .next t ∧ OutFrame s t ch ∧
      exec (.blink ch true) { s with arg0 := (pulseProfile s fl).on, arg1 := (pulseProfile s fl).off } =
        .next { t with arg0 := (pulseProfile s fl).on, arg1 := (pulseProfile s fl).off } ∧
      t.outAt ch = { s.outAt ch with
        engine := .none, effect := .blinking, period := (t.outAt ch).period, duty := (t.outAt ch).duty }

/-- R96, R97, R98: a blink period of 0 or above 2^32-1, of BLINK or of a delegating PULSE, and a pulse period above 2^32-1 are
refused with PERIOD_RANGE, and a FADE duty above 100 with DUTY_RANGE. -/
def Obligations.OperandRangesAreChecked : Prop :=
  ∀ (s : State) (ch : Chan), s.busy = false → s.cfg.HasChannel .out ch →
    (∀ offp : Bool, ¬ BlinkPeriodOk s.arg0 (if offp then s.arg1 else s.arg0) →
      exec (.blink ch offp) s = .next (s.raise .periodRange)) ∧
    (∀ fl : BitVec 4, (pulseProfile s fl).Delegates → ¬ BlinkPeriodOk (pulseProfile s fl).on (pulseProfile s fl).off →
      exec (.pulse ch fl) s = .next (s.raise .periodRange)) ∧
    (∀ fl : BitVec 4, ¬ (pulseProfile s fl).Delegates → 2 ^ 32 - 1 < (pulseProfile s fl).sum →
      exec (.pulse ch fl) s = .next (s.raise .periodRange)) ∧
    ((100 < s.arg0.toNat ∨ 100 < s.arg1.toNat) → exec (.fade ch) s = .next (s.raise .dutyRange))

/-- R102 (1) and (3): BLINK without `off` is BLINK with `off = on`; PULSE without operands is PULSE of 500, 500, 500, 500. -/
def Obligations.DefaultFormsAreEquivalent : Prop :=
  ∀ (s : State) (ch : Chan),
    (s.arg1 = s.arg0 → exec (.blink ch false) s = exec (.blink ch true) s) ∧
    (s.arg0 = 500 ∧ s.arg1 = 500 ∧ s.arg2 = 500 ∧ s.arg3 = 500 → exec (.pulse ch 0) s = exec (.pulse ch 15) s)

/-- R98: FADE with duties at most 100 tears down the running task, makes the PWM run at CARRIER_PERIOD, loads the fade, starts
the fade engine at NOW and applies the first sample: the start duty, or for a duration of 0 the end duty, which ends the
fade at once. -/
def Obligations.FadeStartsTheEngine : Prop :=
  ∀ (s : State) (ch : Chan), OutReady s ch → s.arg0.toNat ≤ 100 → s.arg1.toNat ≤ 100 →
    ∃ t : State, exec (.fade ch) s = .next t ∧ OutFrame s t ch ∧
      (t.outAt ch).fStart.toNat = s.arg0.toNat ∧ (t.outAt ch).fEnd.toNat = s.arg1.toNat ∧
      (t.outAt ch).duty.toNat = (if s.arg2 = 0 then s.arg1.toNat else s.arg0.toNat) ∧
      t.outAt ch = { s.outAt ch with
        engine := if s.arg2 = 0 then .none else .fade, effect := .fading, start := s.now, fDur := s.arg2,
        period := s.cfg.carrierPeriod, fStart := (t.outAt ch).fStart, fEnd := (t.outAt ch).fEnd,
        duty := (t.outAt ch).duty } ∧
      emitted s t = stamp s.now (teardownOps ch (s.outAt ch) ++
        (if (s.outAt ch).blinking = false then [.setPwm ch s.cfg.carrierPeriod 0]
          else if (s.outAt ch).period = s.cfg.carrierPeriod then [] else [.changeFreq ch s.cfg.carrierPeriod]) ++
        [.changeDuty ch (t.outAt ch).duty])

/-- R93, R99: STOP cancels the running task and emits STOP_PWM; EFFECT becomes IDLE, and LEVEL, PERIOD, and, but for a pulse,
DUTY stay. A second STOP emits one more STOP_PWM and changes nothing else. -/
def Obligations.StopIsIdempotent : Prop :=
  ∀ (s : State) (ch : Chan), OutReady s ch →
    ∃ t : State, exec (.stop ch) s = .next t ∧ OutFrame s t ch ∧
      t.outAt ch = { s.outAt ch with
        engine := .none, effect := .idle, duty := if (s.outAt ch).engine = .pulse then 0 else (s.outAt ch).duty } ∧
      emitted s t = stamp s.now (teardownOps ch (s.outAt ch) ++ [.stopPwm ch]) ∧
      exec (.stop ch) t = .next { t with port := t.port ++ [{ time := s.now, op := .stopPwm ch }] }

/-- R100: STOP_ALL stops every output channel, in ascending order, and touches nothing else. -/
def Obligations.StopAllStopsEveryChannel : Prop :=
  ∀ s : State, s.busy = false → s.out.length ≤ 16 →
    ∃ t : State, exec .stopAll s = .next t ∧ t = { s with out := t.out, port := t.port } ∧
      t.out = s.out.map (fun o => { o with
        engine := .none, effect := .idle, duty := if o.engine = .pulse then 0 else o.duty }) ∧
      t.port = s.port ++ stamp s.now ((List.range s.out.length).flatMap (fun i =>
        teardownOps (BitVec.ofNat 4 i) (s.outAt (BitVec.ofNat 4 i)) ++ [.stopPwm (BitVec.ofNat 4 i)]))

/-! ### Time (R75 to R90) -/

/-- R75, R118: a time step advances NOW by one modulo 2^64 and changes only NOW, the OUT records and the port. It completes in
every state with a period for each running pulse. -/
def Obligations.TimeStepAdvancesNow : Prop :=
  ∀ s : State, (∀ o ∈ s.out, o.engine = .pulse → o.pperiod ≠ 0) →
    ∃ t : State, timeStep s = .next t ∧ t.now.toNat = (s.now.toNat + 1) % 2 ^ 64 ∧
      t = { s with now := t.now, out := t.out, port := t.port } ∧ t.out.length = s.out.length ∧ s.port <+: t.port

/-- R75, R84, R85: in a time step a pulsing channel on its 20-unit grid gets the phase and duty R85's four branches give at
`d = (NOW - START) mod PPERIOD`, with one CHANGE_DUTY; off its grid nothing of it changes and nothing is emitted for it. -/
def Obligations.PulseRunsOnItsGrid : Prop :=
  ∀ (s t : State) (ch : Chan) (o : OutCh) (d a b c : Nat), s.Inv → timeStep s = .next t → s.out[ch.toNat]? = some o →
    o.engine = .pulse → d = (t.now - o.start).toNat % o.pperiod.toNat →
    a = o.tOn.toNat → b = a + o.on.toNat → c = b + o.tOff.toNat →
    ((t.now - o.start).toNat % 20 ≠ 0 → t.outAt ch = o ∧ outOps ch (emitted s t) = []) ∧
    ((t.now - o.start).toNat % 20 = 0 →
      t.outAt ch = { o with duty := (t.outAt ch).duty, phase := (t.outAt ch).phase } ∧
      outOps ch (emitted s t) = [.changeDuty ch (t.outAt ch).duty] ∧
      (d ≤ a → (t.outAt ch).phase = .rising ∧
        (t.outAt ch).duty.toNat = if a = 0 then 100 else rdiv s.cfg.rounding (100 * d) a) ∧
      (a < d → d ≤ b → (t.outAt ch).phase = .on ∧ (t.outAt ch).duty.toNat = 100) ∧
      (b < d → d ≤ c → (t.outAt ch).phase = .falling ∧
        (t.outAt ch).duty.toNat = rdiv s.cfg.rounding (100 * (c - d)) o.tOff.toNat) ∧
      (c < d → (t.outAt ch).phase = .off ∧ (t.outAt ch).duty.toNat = 0))

/-- R87: the duty over a period of a profile with T_ON > 0: 0 at the start, non-decreasing and changing by at most
ceil(100/T_ON) from one time unit to the next while rising, 100 at T_ON and while on, non-increasing while falling, 0 at the
end of falling and while off. With T_ON = 0 it is 100 at the start. -/
def Obligations.PulseDutyRisesHoldsAndFalls : Prop :=
  ∀ (r : Rounding) (o : OutCh) (a b c : Nat), a = o.tOn.toNat → b = a + o.on.toNat → c = b + o.tOff.toNat →
    (0 < a → (pulseAt r o 0).2 = 0) ∧
    (a = 0 → (pulseAt r o 0).2 = 100) ∧
    (∀ d : Nat, d + 1 ≤ a → (pulseAt r o d).2 ≤ (pulseAt r o (d + 1)).2 ∧
      (pulseAt r o (d + 1)).2 ≤ (pulseAt r o d).2 + (100 + a - 1) / a) ∧
    (∀ d : Nat, a ≤ d → d ≤ b → (pulseAt r o d).2 = 100) ∧
    (∀ d : Nat, b < d → d + 1 ≤ c → (pulseAt r o (d + 1)).2 ≤ (pulseAt r o d).2) ∧
    (b < c → (pulseAt r o c).2 = 0) ∧
    (∀ d : Nat, c < d → (pulseAt r o d).2 = 0) ∧
    (∀ d : Nat, (pulseAt r o d).2 ≤ 100)

/-- R75, R88, R89: in a time step a fading channel on its 100-unit grid gets its next sample with one CHANGE_DUTY: the rounded
interpolation while `e < F_DUR`, which lies between the two duties, and F_END with the engine stopped from F_DUR on. Off its
grid nothing of it changes and nothing is emitted for it. -/
def Obligations.FadeRunsOnItsGrid : Prop :=
  ∀ (s t : State) (ch : Chan) (o : OutCh) (e : Nat), s.Inv → timeStep s = .next t → s.out[ch.toNat]? = some o →
    o.engine = .fade → e = (t.now - o.start).toNat →
    (e % 100 ≠ 0 → t.outAt ch = o ∧ outOps ch (emitted s t) = []) ∧
    (e % 100 = 0 →
      t.outAt ch = { o with duty := (t.outAt ch).duty, engine := (t.outAt ch).engine } ∧
      outOps ch (emitted s t) = [.changeDuty ch (t.outAt ch).duty] ∧
      (o.fDur.toNat ≤ e → (t.outAt ch).engine = .none ∧ (t.outAt ch).duty = o.fEnd) ∧
      (e < o.fDur.toNat → (t.outAt ch).engine = .fade ∧
        (t.outAt ch).duty.toNat =
          rdiv s.cfg.rounding (o.fStart.toNat * (o.fDur.toNat - e) + o.fEnd.toNat * e) o.fDur.toNat ∧
        min o.fStart.toNat o.fEnd.toNat ≤ (t.outAt ch).duty.toNat ∧
        (t.outAt ch).duty.toNat ≤ max o.fStart.toNat o.fEnd.toNat))

/-- R75, R78: in a time step a channel with no engine changes only if its settle delay ends at the new NOW; then WRITE_DIGITAL
of 1 is emitted, LEVEL becomes 1 and SETTLE 0. -/
def Obligations.SettleEndsAtItsDeadline : Prop :=
  ∀ (s t : State) (ch : Chan) (o : OutCh), s.Inv → timeStep s = .next t → s.out[ch.toNat]? = some o → o.engine = .none →
    (o.settle = true ∧ t.now = o.settleDl →
      t.outAt ch = { o with level := true, settle := false } ∧ outOps ch (emitted s t) = [.writeDigital ch true]) ∧
    (¬ (o.settle = true ∧ t.now = o.settleDl) → t.outAt ch = o ∧ outOps ch (emitted s t) = [])

/-- R78, R91, R140: after a WRITE of 1 from a blinking state the block is BUSY for 20 time steps: the digital write comes in
the 20th, not before, and BUSY ends with it (`timeRun`: log 2). -/
def Obligations.SettleTakesTwentyTimeSteps : Prop :=
  ∀ (s t : State) (ch : Chan), s.Inv → OutReady s ch → (s.outAt ch).blinking = true → exec (.write ch true) s = .next t →
    (∀ k : Nat, k < 20 → ∃ u : State, timeRun k t = .next u ∧ u.busy = true ∧ outOps ch (emitted t u) = []) ∧
    ∃ u : State, timeRun 20 t = .next u ∧ u.busy = false ∧ (u.outAt ch).level = true ∧
      outOps ch (emitted t u) = [.writeDigital ch true] ∧
      { time := s.now + 20, op := .writeDigital ch true } ∈ emitted t u

/-- R88, R89, R90 (2): a fade that nothing disturbs runs until the first sample at or after its duration, and ends there at
its end duty, with EFFECT still FADING (`timeRun`: log 2). -/
def Obligations.FadeEndsAtItsEndDuty : Prop :=
  ∀ (s t : State) (ch : Chan), s.Inv → OutReady s ch → s.arg0.toNat ≤ 100 → s.arg1.toNat ≤ 100 →
    exec (.fade ch) s = .next t →
    (∀ k : Nat, k < (s.arg2.toNat + 99) / 100 * 100 → ∃ u : State, timeRun k t = .next u ∧ (u.outAt ch).engine = .fade) ∧
    ∃ u : State, timeRun ((s.arg2.toNat + 99) / 100 * 100) t = .next u ∧ (u.outAt ch).engine = .none ∧
      (u.outAt ch).effect = .fading ∧ (u.outAt ch).duty.toNat = s.arg1.toNat

/-- R81, R99: after a STOP no pin operation of the channel follows, however many time steps pass (`timeRun`: log 2). -/
def Obligations.StoppedChannelStaysQuiet : Prop :=
  ∀ (s t : State) (ch : Chan) (k : Nat), s.Inv → OutReady s ch → exec (.stop ch) s = .next t →
    ∃ u : State, timeRun k t = .next u ∧ u.outAt ch = t.outAt ch ∧ outOps ch (emitted t u) = []

/-- R76: no channel's result in a time step depends on another channel: two states that agree on the parameters, NOW and the
record of one channel agree, after a time step, on that record and on what was emitted for the channel. -/
def Obligations.ChannelsDoNotInterfere : Prop :=
  ∀ (s1 s2 t1 t2 : State) (ch : Chan), s1.Inv → s2.Inv → s1.cfg = s2.cfg → s1.now = s2.now →
    s1.outAt ch = s2.outAt ch → timeStep s1 = .next t1 → timeStep s2 = .next t2 →
    t1.outAt ch = t2.outAt ch ∧ outOps ch (emitted s1 t1) = outOps ch (emitted s2 t2)

/-! ### Debounced inputs (R103 to R110) -/

/-- R103 to R106: IN_ON_HIGH, IN_ON_LOW and IN_ON_CHANGED set their slot; only an Idle channel is subscribed, with ARG[0] as its
debounce interval. Nothing but the channel and the port changes. -/
def Obligations.RegistrationSubscribesOnce : Prop :=
  ∀ (s : State) (ch : Chan) (tok : Token), InReady s ch →
    (∃ t : State, exec (.inOnHigh ch tok) s = .next t ∧ InFrame s t ch ∧
      t.inAt ch = { s.inAt ch with
        high := { valid := true, tok := tok }, subscribed := true,
        minInterval := if (s.inAt ch).subscribed then (s.inAt ch).minInterval else s.arg0 } ∧
      emitted s t = stamp s.now (if (s.inAt ch).subscribed then [] else [.subscribeEdge ch s.arg0])) ∧
    (∃ t : State, exec (.inOnLow ch tok) s = .next t ∧ InFrame s t ch ∧
      t.inAt ch = { s.inAt ch with
        low := { valid := true, tok := tok }, subscribed := true,
        minInterval := if (s.inAt ch).subscribed then (s.inAt ch).minInterval else s.arg0 } ∧
      emitted s t = stamp s.now (if (s.inAt ch).subscribed then [] else [.subscribeEdge ch s.arg0])) ∧
    (∃ t : State, exec (.inOnChanged ch tok) s = .next t ∧ InFrame s t ch ∧
      t.inAt ch = { s.inAt ch with
        changed := { valid := true, tok := tok }, subscribed := true,
        minInterval := if (s.inAt ch).subscribed then (s.inAt ch).minInterval else s.arg0 } ∧
      emitted s t = stamp s.now (if (s.inAt ch).subscribed then [] else [.subscribeEdge ch s.arg0]))

/-- R107: IN_CLEAR puts the whole record back to its reset values, and unsubscribes a subscribed channel. Records in EVQ stay. -/
def Obligations.ClearUnsubscribes : Prop :=
  ∀ (s : State) (ch : Chan), InReady s ch →
    ∃ t : State, exec (.inClear ch) s = .next t ∧ InFrame s t ch ∧ t.inAt ch = InCh.reset ∧
      emitted s t = stamp s.now (if (s.inAt ch).subscribed then [.unsubscribeEdge ch] else [])

/-- R108, R109: an edge on a subscribed channel is accepted when none has been accepted since the subscription or at least
MIN_INTERVAL time units have passed; it records the time and the level and pushes the HIGH or LOW record and then the CHANGED
record, while EVQ has room. An IN record reads back as R124 lays it out: TOK, SRC 0, CH, EV, zeros in 3:1, LVL. -/
def Obligations.AcceptedEdgePushesItsRecords : Prop :=
  (∀ (tok : Token) (ch : Chan) (ev : BitVec 4) (lvl : Bool),
    recTok (evrec tok .inp ch ev lvl) = tok ∧ recSrc (evrec tok .inp ch ev lvl) = 0 ∧ recCh (evrec tok .inp ch ev lvl) = ch ∧
    recEv (evrec tok .inp ch ev lvl) = ev ∧ (evrec tok .inp ch ev lvl).extractLsb' 1 3 = 0 ∧
    recLvl (evrec tok .inp ch ev lvl) = lvl) ∧
  ∀ (s : State) (ch : Chan) (lvl : Bool) (recs : List Word), s.cfg.HasChannel .inp ch → ch.toNat < s.inp.length →
    (s.inAt ch).subscribed = true →
    ((s.inAt ch).lastValid = false ∨ (s.inAt ch).minInterval.toNat ≤ (s.now - (s.inAt ch).lastTs).toNat) →
    recs = (if lvl = true ∧ (s.inAt ch).high.valid = true then [evrec (s.inAt ch).high.tok .inp ch 0 true] else []) ++
      (if lvl = false ∧ (s.inAt ch).low.valid = true then [evrec (s.inAt ch).low.tok .inp ch 1 false] else []) ++
      (if (s.inAt ch).changed.valid = true then [evrec (s.inAt ch).changed.tok .inp ch 2 lvl] else []) →
    s.evq.length ≤ s.cfg.evqDepth →
    (edge ch lvl s).inAt ch = { s.inAt ch with lastValid := true, lastTs := s.now, lastLevel := lvl } ∧
    (edge ch lvl s).evq = (s.evq ++ recs).take s.cfg.evqDepth ∧
    (edge ch lvl s).evtOvf = (s.evtOvf || decide (s.cfg.evqDepth < s.evq.length + recs.length)) ∧
    edge ch lvl s = { s with
      inp := (edge ch lvl s).inp, evq := (edge ch lvl s).evq, evtOvf := (edge ch lvl s).evtOvf } ∧
    ∀ k : Nat, k ≠ ch.toNat → (edge ch lvl s).inp[k]? = s.inp[k]?

/-- R108, R109: an edge on a channel that is not in the build or is Idle, or one too soon after the last accepted edge, changes
no state and pushes nothing. -/
def Obligations.OtherEdgesAreDropped : Prop :=
  ∀ (s : State) (ch : Chan) (lvl : Bool),
    (s.cfg.nIn ≤ ch.toNat ∨ (s.inAt ch).subscribed = false ∨
      ((s.inAt ch).lastValid = true ∧ (s.now - (s.inAt ch).lastTs).toNat < (s.inAt ch).minInterval.toNat)) →
    edge ch lvl s = s

/-! ### Touch channels (R111 to R117) -/

/-- R111 to R114: the three touch registrations set their slot, emit nothing and change nothing else. -/
def Obligations.TouchRegistrationSetsItsSlot : Prop :=
  ∀ (s : State) (ch : Chan) (tok : Token), TouchReady s ch →
    (∃ t : State, exec (.touchOnPress ch tok) s = .next t ∧ TouchFrame s t ch ∧
      t.touchAt ch = { s.touchAt ch with pressSlot := { valid := true, tok := tok } }) ∧
    (∃ t : State, exec (.touchOnRelease ch tok) s = .next t ∧ TouchFrame s t ch ∧
      t.touchAt ch = { s.touchAt ch with releaseSlot := { valid := true, tok := tok } }) ∧
    (∃ t : State, exec (.touchOnHeld ch tok) s = .next t ∧ TouchFrame s t ch ∧
      t.touchAt ch = { s.touchAt ch with heldSlot := { valid := true, tok := tok } })

/-- R115: what a touch event does to PRESSED and HELD, and the record it pushes; NONE has no slot. An event on a channel that is
not in the build changes nothing. A TOUCH record reads back as R124 lays it out: TOK, SRC 1, CH, EV, zeros in 3:1, LVL.
The events are numbered as R132 numbers them on the port. -/
def Obligations.TouchEventUpdatesAndPushes : Prop :=
  (TouchEvent.press.code = 0 ∧ TouchEvent.release.code = 1 ∧ TouchEvent.held.code = 2 ∧ TouchEvent.none.code = 3) ∧
  (∀ (tok : Token) (ch : Chan) (ev : BitVec 4) (lvl : Bool),
    recTok (evrec tok .touch ch ev lvl) = tok ∧ recSrc (evrec tok .touch ch ev lvl) = 1 ∧
    recCh (evrec tok .touch ch ev lvl) = ch ∧ recEv (evrec tok .touch ch ev lvl) = ev ∧
    (evrec tok .touch ch ev lvl).extractLsb' 1 3 = 0 ∧ recLvl (evrec tok .touch ch ev lvl) = lvl) ∧
  ∀ (s : State) (ch : Chan) (ev : TouchEvent),
    (s.cfg.nTouch ≤ ch.toNat → touchEvent ch ev s = s) ∧
    (s.cfg.HasChannel .touch ch → ch.toNat < s.touch.length →
      (touchEvent ch ev s).touchAt ch = { s.touchAt ch with
        pressed := decide (ev = .press) || (decide (ev = .held) && (s.touchAt ch).pressed),
        held := decide (ev = .held) || (decide (ev = .press) && (s.touchAt ch).held) } ∧
      (∀ k : Nat, k ≠ ch.toNat → (touchEvent ch ev s).touch[k]? = s.touch[k]?) ∧
      ∀ recs : List Word,
        recs = (if ev = .press ∧ (s.touchAt ch).pressSlot.valid = true
            then [evrec (s.touchAt ch).pressSlot.tok .touch ch 0 false] else []) ++
          (if ev = .release ∧ (s.touchAt ch).releaseSlot.valid = true
            then [evrec (s.touchAt ch).releaseSlot.tok .touch ch 1 false] else []) ++
          (if ev = .held ∧ (s.touchAt ch).heldSlot.valid = true
            then [evrec (s.touchAt ch).heldSlot.tok .touch ch 2 false] else []) →
        s.evq.length ≤ s.cfg.evqDepth →
        touchEvent ch ev s = { s with
          touch := (touchEvent ch ev s).touch,
          evq := (s.evq ++ recs).take s.cfg.evqDepth,
          evtOvf := s.evtOvf || decide (s.cfg.evqDepth < s.evq.length + recs.length) })

/-- R117: a PRESS and then a RELEASE, with both slots set, leave the pad neither pressed nor held and push exactly two records,
the PRESS record and then the RELEASE record (each dropped if it finds EVQ full, R125). -/
def Obligations.PressThenReleaseFiresBothInOrder : Prop :=
  ∀ (s : State) (ch : Chan), s.cfg.HasChannel .touch ch → ch.toNat < s.touch.length →
    (s.touchAt ch).pressSlot.valid = true → (s.touchAt ch).releaseSlot.valid = true → s.evq.length ≤ s.cfg.evqDepth →
    ((touchEvent ch .release (touchEvent ch .press s)).touchAt ch).pressed = false ∧
    ((touchEvent ch .release (touchEvent ch .press s)).touchAt ch).held = false ∧
    (touchEvent ch .release (touchEvent ch .press s)).evq =
      (s.evq ++ [evrec (s.touchAt ch).pressSlot.tok .touch ch 0 false,
        evrec (s.touchAt ch).releaseSlot.tok .touch ch 1 false]).take s.cfg.evqDepth ∧
    (touchEvent ch .release (touchEvent ch .press s)).evtOvf =
      (s.evtOvf || decide (s.cfg.evqDepth < s.evq.length + 2))

/-! ### The register window (R38 to R60) -/

/-- R39: an access that is not 4 bytes wide at a multiple of 4 gets a bus error; it changes no state, pops nothing, latches
nothing and returns no data (`resp`: log 4). -/
def Obligations.IllFormedAccessIsABusError : Prop :=
  ∀ (s : State) (off : BitVec 12) (width : Nat) (w : Word), (width ≠ 4 ∨ off.toNat % 4 ≠ 0) →
    hostRead off width s = .next { s with resp := .error } ∧ hostWrite off width w s = .next { s with resp := .error }

/-- R40, R43: the offsets that no register occupies, the unused words and the channels not in the build among them, read 0
and ignore writes (`resp`: log 4). -/
def Obligations.UnmappedReadsZeroAndIgnoresWrites : Prop :=
  ∀ (s : State) (off : BitVec 12) (w : Word), off.toNat % 4 = 0 →
    ((0x040 ≤ off.toNat ∧ off.toNat < 0x100) ∨
      (0x100 ≤ off.toNat ∧ off.toNat < 0x200 ∧ s.cfg.nOut ≤ (off.toNat - 0x100) / 16) ∨
      (0x200 ≤ off.toNat ∧ off.toNat < 0x300 ∧ (s.cfg.nIn ≤ (off.toNat - 0x200) / 16 ∨ off.toNat % 16 = 12)) ∨
      (0x300 ≤ off.toNat ∧ off.toNat < 0x340 ∧ s.cfg.nTouch ≤ (off.toNat - 0x300) / 4) ∨ 0x340 ≤ off.toNat) →
    hostRead off 4 s = .next { s with resp := .data 0 } ∧ hostWrite off 4 w s = .next { s with resp := .done }

/-- R41, R43, R60: of all aligned writes only those to STATUS, IRQ_EN, ARG0 to ARG3 and CMD do anything (`resp`: log 4). -/
def Obligations.ReadOnlyRegistersIgnoreWrites : Prop :=
  ∀ (s : State) (off : BitVec 12) (w : Word), off.toNat % 4 = 0 →
    off.toNat ≠ 0x00C → off.toNat ≠ 0x014 → off.toNat ≠ 0x020 → off.toNat ≠ 0x024 → off.toNat ≠ 0x028 → off.toNat ≠ 0x02C →
    off.toNat ≠ 0x030 → hostWrite off 4 w s = .next { s with resp := .done }

/-- R44 to R58, R60: of all aligned reads only those of EVT_DATA and NOW_LO have a side effect; every other one returns the
window's word at its offset, which RegistersReadTheState describes, and changes nothing (`resp`: log 4). -/
def Obligations.OtherReadsHaveNoSideEffect : Prop :=
  ∀ (s : State) (off : BitVec 12), off.toNat % 4 = 0 → off.toNat ≠ 0x01C → off.toNat ≠ 0x038 →
    hostRead off 4 s = .next { s with resp := .data (windowWord s off) }

/-- R52: a write of ARG0 to ARG3 sets that argument to the word and changes no other state; a read returns it (`resp`: log
4). -/
def Obligations.ArgumentsHoldTheLastWrite : Prop :=
  ∀ (s : State) (w : Word),
    hostWrite 0x020 4 w s = .next { s with arg0 := w, resp := .done } ∧
    hostWrite 0x024 4 w s = .next { s with arg1 := w, resp := .done } ∧
    hostWrite 0x028 4 w s = .next { s with arg2 := w, resp := .done } ∧
    hostWrite 0x02C 4 w s = .next { s with arg3 := w, resp := .done } ∧
    hostRead 0x020 4 s = .next { s with resp := .data s.arg0 } ∧ hostRead 0x024 4 s = .next { s with resp := .data s.arg1 } ∧
    hostRead 0x028 4 s = .next { s with resp := .data s.arg2 } ∧ hostRead 0x02C 4 s = .next { s with resp := .data s.arg3 }

/-- R47: a write of STATUS with bit 1 clears ERR and ERR_CODE, with bit 2 EVT_OVF, and nothing else; a read gives BUSY, ERR,
EVT_OVF, EVT_PEND and IRQ in bits 0 to 4 and 0 above (`resp`: log 4). -/
def Obligations.StatusClearsAndShows : Prop :=
  ∀ (s : State) (w : Word),
    hostWrite 0x00C 4 w s = .next { s with
      err := s.err && !w.getLsbD 1, errCode := if w.getLsbD 1 then .none else s.errCode,
      evtOvf := s.evtOvf && !w.getLsbD 2, resp := .done } ∧
    ∃ v : Word, hostRead 0x00C 4 s = .next { s with resp := .data v } ∧
      v.getLsbD 0 = s.busy ∧ v.getLsbD 1 = s.err ∧ v.getLsbD 2 = s.evtOvf ∧ (v.getLsbD 3 = true ↔ s.evq ≠ []) ∧
      v.getLsbD 4 = s.irq ∧ ∀ i : Nat, 5 ≤ i → v.getLsbD i = false

/-- R49, R126: IRQ_EN takes the low three bits written, and the line is the OR of the three enabled sources (`resp`: log 4). -/
def Obligations.InterruptLineFollowsItsSources : Prop :=
  ∀ (s : State) (w : Word),
    hostWrite 0x014 4 w s = .next { s with irqEn := w.extractLsb' 0 3, resp := .done } ∧
    hostRead 0x014 4 s = .next { s with resp := .data (s.irqEn.setWidth 32) } ∧
    (s.irq = true ↔ (s.irqEn.getLsbD 0 = true ∧ 0 < s.evq.length) ∨ (s.irqEn.getLsbD 1 = true ∧ s.err = true) ∨
      (s.irqEn.getLsbD 2 = true ∧ s.evtOvf = true))

/-- R51: a read of EVT_DATA returns and removes the oldest record, or returns 0 and changes nothing when there is none
(`resp`: log 4). -/
def Obligations.EventDataPopsTheOldest : Prop :=
  ∀ s : State,
    (∀ (r : Word) (l : List Word), s.evq = r :: l → hostRead 0x01C 4 s = .next { s with evq := l, resp := .data r }) ∧
    (s.evq = [] → hostRead 0x01C 4 s = .next { s with resp := .data 0x00000000 })

/-- R55, R60, R144: a read of NOW_LO returns the lower half of NOW, latches the upper half in NOW_HI_SNAP and changes nothing
else; a read of NOW_HI returns NOW_HI_SNAP and changes nothing. So a NOW_LO read and a later NOW_HI read, with neither a NOW_LO
read nor a reset between them, give the two halves of NOW as it stood at the first, whatever else happens between
(`schedule`: log 2, `resp`: log 4). -/
def Obligations.NowReadsAreConsistent : Prop :=
  (∀ s : State,
    hostRead 0x038 4 s = .next { s with
      nowHiSnap := s.now.extractLsb' 32 32, resp := .data (s.now.extractLsb' 0 32) } ∧
    hostRead 0x03C 4 s = .next { s with resp := .data s.nowHiSnap }) ∧
  ∀ (s t u v : State) (mid l : List Transition),
    s.schedule = .read 0x038 4 :: (mid ++ .read 0x03C 4 :: l) → .read 0x038 4 ∉ mid → .reset ∉ mid →
    step s = .next t → Sys2Proof.core.run mid.length t = .next u → step u = .next v →
    t.resp = .data (s.now.extractLsb' 0 32) ∧ v.resp = .data (s.now.extractLsb' 32 32)

/-- R44 to R46, R48, R50, R53, R54, R56 to R58: what the identity, count, error, command, carrier and channel registers read as,
bit field by bit field, with the numbers of EFFECT, ENGINE, PHASE and ERR_CODE (R21, R22, R31, R119). -/
def Obligations.RegistersReadTheState : Prop :=
  (Effect.idle.code = 0 ∧ Effect.writing.code = 1 ∧ Effect.blinking.code = 2 ∧ Effect.pulsing.code = 3 ∧
    Effect.fading.code = 4 ∧ Engine.none.code = 0 ∧ Engine.pulse.code = 1 ∧ Engine.fade.code = 2 ∧
    Phase.rising.code = 0 ∧ Phase.on.code = 1 ∧ Phase.falling.code = 2 ∧ Phase.off.code = 3 ∧
    ErrCode.none.code = 0 ∧ ErrCode.busy.code = 1 ∧ ErrCode.illegalOpcode.code = 2 ∧ ErrCode.reservedField.code = 3 ∧
    ErrCode.badChannel.code = 4 ∧ ErrCode.periodRange.code = 5 ∧ ErrCode.dutyRange.code = 6) ∧
  ∀ (s : State) (ch : Chan),
    windowWord s 0x000 = 0x50534831 ∧ windowWord s 0x004 = 0x00070000 ∧
    (s.cfg.Legal → (windowWord s 0x008).toNat =
      s.cfg.nOut + 2 ^ 8 * s.cfg.nIn + 2 ^ 16 * s.cfg.nTouch + 2 ^ 24 * s.cfg.evqDepth) ∧
    (s.evq.length ≤ 255 → (windowWord s 0x018).toNat = s.evq.length) ∧ windowWord s 0x034 = s.cfg.carrierPeriod ∧
    (windowWord s 0x010).toNat = s.errCode.code.toNat ∧ windowWord s 0x030 = 0 ∧
    (s.cfg.HasChannel .out ch →
      windowWord s (0x100 + 0x10 * ch.setWidth 12) = outStatWord (s.outAt ch) ∧
      windowWord s (0x104 + 0x10 * ch.setWidth 12) = (s.outAt ch).period ∧
      windowWord s (0x108 + 0x10 * ch.setWidth 12) = (s.outAt ch).start.extractLsb' 0 32 ∧
      windowWord s (0x10C + 0x10 * ch.setWidth 12) = (s.outAt ch).pperiod ∧
      (outStatWord (s.outAt ch)).extractLsb' 0 3 = (s.outAt ch).effect.code ∧
      (outStatWord (s.outAt ch)).getLsbD 3 = (s.outAt ch).blinking ∧
      (outStatWord (s.outAt ch)).getLsbD 4 = (s.outAt ch).pulsing ∧
      (outStatWord (s.outAt ch)).extractLsb' 5 2 = (s.outAt ch).engine.code ∧
      (outStatWord (s.outAt ch)).getLsbD 7 = (s.outAt ch).level ∧
      (outStatWord (s.outAt ch)).getLsbD 8 = (s.outAt ch).settle ∧
      (outStatWord (s.outAt ch)).extractLsb' 16 7 = (s.outAt ch).duty ∧
      (outStatWord (s.outAt ch)).extractLsb' 24 2 = (s.outAt ch).phase.code ∧
      (outStatWord (s.outAt ch)).extractLsb' 9 7 = 0 ∧ (outStatWord (s.outAt ch)).getLsbD 23 = false ∧
      (outStatWord (s.outAt ch)).extractLsb' 26 6 = 0) ∧
    (s.cfg.HasChannel .inp ch →
      windowWord s (0x200 + 0x10 * ch.setWidth 12) = inStatWord (s.inAt ch) ∧
      windowWord s (0x204 + 0x10 * ch.setWidth 12) = (s.inAt ch).minInterval ∧
      windowWord s (0x208 + 0x10 * ch.setWidth 12) = (s.inAt ch).lastTs.extractLsb' 0 32 ∧
      (inStatWord (s.inAt ch)).getLsbD 0 = (s.inAt ch).subscribed ∧
      (inStatWord (s.inAt ch)).getLsbD 1 = (s.inAt ch).high.valid ∧
      (inStatWord (s.inAt ch)).getLsbD 2 = (s.inAt ch).low.valid ∧
      (inStatWord (s.inAt ch)).getLsbD 3 = (s.inAt ch).changed.valid ∧
      (inStatWord (s.inAt ch)).getLsbD 4 = (s.inAt ch).lastLevel ∧
      (inStatWord (s.inAt ch)).getLsbD 5 = (s.inAt ch).lastValid ∧ (inStatWord (s.inAt ch)).extractLsb' 6 26 = 0) ∧
    (s.cfg.HasChannel .touch ch →
      windowWord s (0x300 + 0x4 * ch.setWidth 12) = touchStatWord (s.touchAt ch) ∧
      (touchStatWord (s.touchAt ch)).getLsbD 0 = (s.touchAt ch).pressed ∧
      (touchStatWord (s.touchAt ch)).getLsbD 1 = (s.touchAt ch).held ∧
      (touchStatWord (s.touchAt ch)).getLsbD 2 = (s.touchAt ch).pressSlot.valid ∧
      (touchStatWord (s.touchAt ch)).getLsbD 3 = (s.touchAt ch).releaseSlot.valid ∧
      (touchStatWord (s.touchAt ch)).getLsbD 4 = (s.touchAt ch).heldSlot.valid ∧
      (touchStatWord (s.touchAt ch)).extractLsb' 5 27 = 0)

/-! ### Whole-machine rules -/

/-- R14, R75, R135: only a time step changes NOW, by one modulo 2^64, and reset, to 0; and no step changes the parameters
(`nextTransition`: log 2). -/
def Obligations.OnlyTimeStepsMoveNow : Prop :=
  ∀ s t : State, step s = .next t →
    (nextTransition s = .timeStep → t.now = s.now + 1) ∧ (nextTransition s = .reset → t.now = 0) ∧
    (nextTransition s ≠ .timeStep → nextTransition s ≠ .reset → t.now = s.now) ∧ t.cfg = s.cfg

/-- R16: nothing but the host's own write of an argument register, or reset, changes ARG[0..3] (`nextTransition`: log 2;
that reset clears them: log 16). -/
def Obligations.OnlyTheHostChangesArguments : Prop :=
  ∀ s t : State, step s = .next t → nextTransition s ≠ .reset →
    (∀ w : Word, nextTransition s ≠ .write 0x020 4 w) → (∀ w : Word, nextTransition s ≠ .write 0x024 4 w) →
    (∀ w : Word, nextTransition s ≠ .write 0x028 4 w) → (∀ w : Word, nextTransition s ≠ .write 0x02C 4 w) →
    t.arg0 = s.arg0 ∧ t.arg1 = s.arg1 ∧ t.arg2 = s.arg2 ∧ t.arg3 = s.arg3

/-- R20, R125: a read of EVT_DATA takes EVQ's head; an edge or a touch event may append records at its end, and takes none;
reset empties it; no other transition changes it (`nextTransition`: log 2). -/
def Obligations.EventQueueIsFirstInFirstOut : Prop :=
  ∀ s t : State, step s = .next t →
    (nextTransition s = .read 0x01C 4 → t.evq = s.evq.tail) ∧
    (∀ ch lvl, nextTransition s = .edge ch lvl → s.evq <+: t.evq) ∧
    (∀ ch ev, nextTransition s = .touch ch ev → s.evq <+: t.evq) ∧
    (nextTransition s = .reset → t.evq = []) ∧
    (nextTransition s ≠ .read 0x01C 4 → (∀ ch lvl, nextTransition s ≠ .edge ch lvl) →
      (∀ ch ev, nextTransition s ≠ .touch ch ev) → nextTransition s ≠ .reset → t.evq = s.evq)

/-- R135, R136: the reset transition puts the PSB at its reset values, and emits nothing. That it zeroes ARG[0..3] rests on log 16
(R135 against D25). That reset leaves `schedule`,
`port` and `resp` as they are is the model's choice (log 10). -/
def Obligations.ResetRestoresAndIsSilent : Prop :=
  ∀ (s : State) (l : List Transition), s.schedule = .reset :: l →
    step s = .next { State.resetOf s.cfg with schedule := l, port := s.port, resp := s.resp } ∧
    ∀ t : State, step s = .next t → t.port = s.port ∧ t.busy = false ∧ t.evtPend = false ∧ t.irq = false

/-- R23 to R26: LEVEL, DUTY, PERIOD and BLINKING always say what the pin operations emitted to the channel add up to: in
every step but reset, from every state that meets the invariant, the record's view moves as the channel's emitted operations
do (`port`: log 5). -/
def Obligations.RecordsTrackThePins : Prop :=
  ∀ (s t : State) (ch : Chan), s.Inv → step s = .next t → nextTransition s ≠ .reset → s.cfg.HasChannel .out ch →
    (t.outAt ch).view = (outOps ch (emitted s t)).foldl PinView.apply (s.outAt ch).view

/-- R33: SUBSCRIBED is what the subscriptions emitted for the channel add up to, in every step but reset (`port`: log 5). -/
def Obligations.SubscribedTracksThePort : Prop :=
  ∀ (s t : State) (ch : Chan), s.Inv → step s = .next t → nextTransition s ≠ .reset → s.cfg.HasChannel .inp ch →
    (t.inAt ch).subscribed = (inOps ch (emitted s t)).foldl applySub (s.inAt ch).subscribed

/-- R135: the reset of every legal build meets the invariant. -/
def Obligations.ResetMeetsTheInvariant : Prop :=
  State.reset.Inv ∧ ∀ (cfg : Params) (l : List Transition), cfg.Legal → { State.resetOf cfg with schedule := l }.Inv

/-- R27, R29, R32, R118, R124: from every state that meets the invariant a step answers a next state, never a fault or a
refusal, and that state meets it. -/
def Obligations.EveryStepKeepsTheInvariant : Prop := ∀ s : State, s.Inv → ∃ t : State, step s = .next t ∧ t.Inv

/-- R32: in every reachable state of every legal build, whatever the agents do. -/
def Obligations.EffectAndEngineAgreeInEveryReachableState : Prop :=
  ∀ (s : State) (ch : Chan), Reachable s → s.cfg.HasChannel .out ch →
    ((s.outAt ch).engine = .pulse ↔ (s.outAt ch).effect = .pulsing) ∧
    ((s.outAt ch).engine = .fade → (s.outAt ch).effect = .fading) ∧
    ((s.outAt ch).settle = true → (s.outAt ch).effect = .writing ∧ (s.outAt ch).engine = .none)

/-- R124: no word in EVQ of a reachable state is 0, so a host tells an empty read from a record. -/
def Obligations.NoRecordIsZero : Prop := ∀ s : State, Reachable s → (0x00000000 : Word) ∉ s.evq
end

