-- ==== Sys2Proof/Laws/Encoding.lean ====
section
/-! SUPPORT. Fields of words: what `place` puts where, and the fields of a packed command word (R64). -/

namespace Sys2Proof

theorem getLsbD_place {n m : Nat} (lo i : Nat) (v : BitVec n) :
    (place lo v : BitVec m).getLsbD i = (decide (i < m) && decide (lo ≤ i) && v.getLsbD (i - lo)) := by
  by_cases h : i < m <;> by_cases h' : lo ≤ i
  · simp [place, h, h']
  · simp [place, h, h', Nat.lt_of_not_le h']
  · simp [place, h]
  · simp [place, h]

/-- The four fields of a packed word read back. -/
theorem pack_fields (op : BitVec 8) (ch : Chan) (fl : BitVec 4) (tok : Token) :
    opOf (pack op ch fl tok) = op ∧ chOf (pack op ch fl tok) = ch ∧ flOf (pack op ch fl tok) = fl ∧
      tokOf (pack op ch fl tok) = tok := by
  refine ⟨?_, ?_, ?_, ?_⟩ <;>
    · apply BitVec.eq_of_getLsbD_eq
      intro i hi
      simp only [opOf, chOf, flOf, tokOf, pack, BitVec.getLsbD_extractLsb', BitVec.getLsbD_or, getLsbD_place]
      interval_cases i <;> simp

/-- A word is the packing of its four fields: they cover all 32 bits. -/
theorem pack_of_fields (w : Word) : pack (opOf w) (chOf w) (flOf w) (tokOf w) = w := by
  apply BitVec.eq_of_getLsbD_eq
  intro i hi
  simp only [opOf, chOf, flOf, tokOf, pack, BitVec.getLsbD_extractLsb', BitVec.getLsbD_or, getLsbD_place]
  interval_cases i <;> simp

/-- The AND of two packed words is the packing of the ANDs, so that R67's masks act on each field by itself. -/
theorem pack_and (op op' : BitVec 8) (ch ch' : Chan) (fl fl' : BitVec 4) (tok tok' : Token) :
    pack op ch fl tok &&& pack op' ch' fl' tok' = pack (op &&& op') (ch &&& ch') (fl &&& fl') (tok &&& tok') := by
  apply BitVec.eq_of_getLsbD_eq
  intro i hi
  simp only [pack, BitVec.getLsbD_and, BitVec.getLsbD_or, getLsbD_place]
  interval_cases i <;> simp

/-- Packed words are equal exactly when their fields are. -/
theorem pack_inj {op op' : BitVec 8} {ch ch' : Chan} {fl fl' : BitVec 4} {tok tok' : Token} :
    pack op ch fl tok = pack op' ch' fl' tok' ↔ op = op' ∧ ch = ch' ∧ fl = fl' ∧ tok = tok' := by
  constructor
  · intro h
    have a := pack_fields op ch fl tok
    have b := pack_fields op' ch' fl' tok'
    rw [h] at a
    exact ⟨a.1.symm.trans b.1, a.2.1.symm.trans b.2.1, a.2.2.1.symm.trans b.2.2.1, a.2.2.2.symm.trans b.2.2.2⟩
  · rintro ⟨rfl, rfl, rfl, rfl⟩
    rfl

end Sys2Proof
end

