-- ==== Sys2Proof/Laws/State.lean ====
section
/-! SUPPORT. The small lemmas of State's accessors and updates: one lemma for each field and each named update, true by
definition, so that later proofs unfold none of them. -/

namespace Sys2Proof.Machine

variable (s : State)

/-! ### Fields after an update -/

@[simp] theorem State.setOut_cfg (ch : Chan) (o : OutCh) : (s.setOut ch o).cfg = s.cfg := rfl
@[simp] theorem State.setOut_now (ch : Chan) (o : OutCh) : (s.setOut ch o).now = s.now := rfl
@[simp] theorem State.setOut_nowHiSnap (ch : Chan) (o : OutCh) : (s.setOut ch o).nowHiSnap = s.nowHiSnap := rfl
@[simp] theorem State.setOut_arg0 (ch : Chan) (o : OutCh) : (s.setOut ch o).arg0 = s.arg0 := rfl
@[simp] theorem State.setOut_arg1 (ch : Chan) (o : OutCh) : (s.setOut ch o).arg1 = s.arg1 := rfl
@[simp] theorem State.setOut_arg2 (ch : Chan) (o : OutCh) : (s.setOut ch o).arg2 = s.arg2 := rfl
@[simp] theorem State.setOut_arg3 (ch : Chan) (o : OutCh) : (s.setOut ch o).arg3 = s.arg3 := rfl
@[simp] theorem State.setOut_err (ch : Chan) (o : OutCh) : (s.setOut ch o).err = s.err := rfl
@[simp] theorem State.setOut_errCode (ch : Chan) (o : OutCh) : (s.setOut ch o).errCode = s.errCode := rfl
@[simp] theorem State.setOut_evtOvf (ch : Chan) (o : OutCh) : (s.setOut ch o).evtOvf = s.evtOvf := rfl
@[simp] theorem State.setOut_irqEn (ch : Chan) (o : OutCh) : (s.setOut ch o).irqEn = s.irqEn := rfl
@[simp] theorem State.setOut_evq (ch : Chan) (o : OutCh) : (s.setOut ch o).evq = s.evq := rfl
@[simp] theorem State.setOut_out (ch : Chan) (o : OutCh) : (s.setOut ch o).out = s.out.set ch.toNat o := rfl
@[simp] theorem State.setOut_inp (ch : Chan) (o : OutCh) : (s.setOut ch o).inp = s.inp := rfl
@[simp] theorem State.setOut_touch (ch : Chan) (o : OutCh) : (s.setOut ch o).touch = s.touch := rfl
@[simp] theorem State.setOut_schedule (ch : Chan) (o : OutCh) : (s.setOut ch o).schedule = s.schedule := rfl
@[simp] theorem State.setOut_port (ch : Chan) (o : OutCh) : (s.setOut ch o).port = s.port := rfl
@[simp] theorem State.setOut_resp (ch : Chan) (o : OutCh) : (s.setOut ch o).resp = s.resp := rfl

@[simp] theorem State.setIn_cfg (ch : Chan) (c : InCh) : (s.setIn ch c).cfg = s.cfg := rfl
@[simp] theorem State.setIn_now (ch : Chan) (c : InCh) : (s.setIn ch c).now = s.now := rfl
@[simp] theorem State.setIn_nowHiSnap (ch : Chan) (c : InCh) : (s.setIn ch c).nowHiSnap = s.nowHiSnap := rfl
@[simp] theorem State.setIn_arg0 (ch : Chan) (c : InCh) : (s.setIn ch c).arg0 = s.arg0 := rfl
@[simp] theorem State.setIn_arg1 (ch : Chan) (c : InCh) : (s.setIn ch c).arg1 = s.arg1 := rfl
@[simp] theorem State.setIn_arg2 (ch : Chan) (c : InCh) : (s.setIn ch c).arg2 = s.arg2 := rfl
@[simp] theorem State.setIn_arg3 (ch : Chan) (c : InCh) : (s.setIn ch c).arg3 = s.arg3 := rfl
@[simp] theorem State.setIn_err (ch : Chan) (c : InCh) : (s.setIn ch c).err = s.err := rfl
@[simp] theorem State.setIn_errCode (ch : Chan) (c : InCh) : (s.setIn ch c).errCode = s.errCode := rfl
@[simp] theorem State.setIn_evtOvf (ch : Chan) (c : InCh) : (s.setIn ch c).evtOvf = s.evtOvf := rfl
@[simp] theorem State.setIn_irqEn (ch : Chan) (c : InCh) : (s.setIn ch c).irqEn = s.irqEn := rfl
@[simp] theorem State.setIn_evq (ch : Chan) (c : InCh) : (s.setIn ch c).evq = s.evq := rfl
@[simp] theorem State.setIn_out (ch : Chan) (c : InCh) : (s.setIn ch c).out = s.out := rfl
@[simp] theorem State.setIn_inp (ch : Chan) (c : InCh) : (s.setIn ch c).inp = s.inp.set ch.toNat c := rfl
@[simp] theorem State.setIn_touch (ch : Chan) (c : InCh) : (s.setIn ch c).touch = s.touch := rfl
@[simp] theorem State.setIn_schedule (ch : Chan) (c : InCh) : (s.setIn ch c).schedule = s.schedule := rfl
@[simp] theorem State.setIn_port (ch : Chan) (c : InCh) : (s.setIn ch c).port = s.port := rfl
@[simp] theorem State.setIn_resp (ch : Chan) (c : InCh) : (s.setIn ch c).resp = s.resp := rfl

@[simp] theorem State.setTouch_cfg (ch : Chan) (t : TouchCh) : (s.setTouch ch t).cfg = s.cfg := rfl
@[simp] theorem State.setTouch_now (ch : Chan) (t : TouchCh) : (s.setTouch ch t).now = s.now := rfl
@[simp] theorem State.setTouch_nowHiSnap (ch : Chan) (t : TouchCh) : (s.setTouch ch t).nowHiSnap = s.nowHiSnap := rfl
@[simp] theorem State.setTouch_arg0 (ch : Chan) (t : TouchCh) : (s.setTouch ch t).arg0 = s.arg0 := rfl
@[simp] theorem State.setTouch_arg1 (ch : Chan) (t : TouchCh) : (s.setTouch ch t).arg1 = s.arg1 := rfl
@[simp] theorem State.setTouch_arg2 (ch : Chan) (t : TouchCh) : (s.setTouch ch t).arg2 = s.arg2 := rfl
@[simp] theorem State.setTouch_arg3 (ch : Chan) (t : TouchCh) : (s.setTouch ch t).arg3 = s.arg3 := rfl
@[simp] theorem State.setTouch_err (ch : Chan) (t : TouchCh) : (s.setTouch ch t).err = s.err := rfl
@[simp] theorem State.setTouch_errCode (ch : Chan) (t : TouchCh) : (s.setTouch ch t).errCode = s.errCode := rfl
@[simp] theorem State.setTouch_evtOvf (ch : Chan) (t : TouchCh) : (s.setTouch ch t).evtOvf = s.evtOvf := rfl
@[simp] theorem State.setTouch_irqEn (ch : Chan) (t : TouchCh) : (s.setTouch ch t).irqEn = s.irqEn := rfl
@[simp] theorem State.setTouch_evq (ch : Chan) (t : TouchCh) : (s.setTouch ch t).evq = s.evq := rfl
@[simp] theorem State.setTouch_out (ch : Chan) (t : TouchCh) : (s.setTouch ch t).out = s.out := rfl
@[simp] theorem State.setTouch_inp (ch : Chan) (t : TouchCh) : (s.setTouch ch t).inp = s.inp := rfl
@[simp] theorem State.setTouch_touch (ch : Chan) (t : TouchCh) : (s.setTouch ch t).touch = s.touch.set ch.toNat t := rfl
@[simp] theorem State.setTouch_schedule (ch : Chan) (t : TouchCh) : (s.setTouch ch t).schedule = s.schedule := rfl
@[simp] theorem State.setTouch_port (ch : Chan) (t : TouchCh) : (s.setTouch ch t).port = s.port := rfl
@[simp] theorem State.setTouch_resp (ch : Chan) (t : TouchCh) : (s.setTouch ch t).resp = s.resp := rfl

@[simp] theorem State.emit_cfg (ops : List PinOp) : (s.emit ops).cfg = s.cfg := rfl
@[simp] theorem State.emit_now (ops : List PinOp) : (s.emit ops).now = s.now := rfl
@[simp] theorem State.emit_nowHiSnap (ops : List PinOp) : (s.emit ops).nowHiSnap = s.nowHiSnap := rfl
@[simp] theorem State.emit_arg0 (ops : List PinOp) : (s.emit ops).arg0 = s.arg0 := rfl
@[simp] theorem State.emit_arg1 (ops : List PinOp) : (s.emit ops).arg1 = s.arg1 := rfl
@[simp] theorem State.emit_arg2 (ops : List PinOp) : (s.emit ops).arg2 = s.arg2 := rfl
@[simp] theorem State.emit_arg3 (ops : List PinOp) : (s.emit ops).arg3 = s.arg3 := rfl
@[simp] theorem State.emit_err (ops : List PinOp) : (s.emit ops).err = s.err := rfl
@[simp] theorem State.emit_errCode (ops : List PinOp) : (s.emit ops).errCode = s.errCode := rfl
@[simp] theorem State.emit_evtOvf (ops : List PinOp) : (s.emit ops).evtOvf = s.evtOvf := rfl
@[simp] theorem State.emit_irqEn (ops : List PinOp) : (s.emit ops).irqEn = s.irqEn := rfl
@[simp] theorem State.emit_evq (ops : List PinOp) : (s.emit ops).evq = s.evq := rfl
@[simp] theorem State.emit_out (ops : List PinOp) : (s.emit ops).out = s.out := rfl
@[simp] theorem State.emit_inp (ops : List PinOp) : (s.emit ops).inp = s.inp := rfl
@[simp] theorem State.emit_touch (ops : List PinOp) : (s.emit ops).touch = s.touch := rfl
@[simp] theorem State.emit_schedule (ops : List PinOp) : (s.emit ops).schedule = s.schedule := rfl
@[simp] theorem State.emit_port (ops : List PinOp) : (s.emit ops).port = s.port ++ stamp s.now ops := rfl
@[simp] theorem State.emit_resp (ops : List PinOp) : (s.emit ops).resp = s.resp := rfl

@[simp] theorem State.onEveryOut_cfg (f : Chan → ChanRun → ChanRun) : (s.onEveryOut f).cfg = s.cfg := rfl
@[simp] theorem State.onEveryOut_now (f : Chan → ChanRun → ChanRun) : (s.onEveryOut f).now = s.now := rfl
@[simp] theorem State.onEveryOut_nowHiSnap (f : Chan → ChanRun → ChanRun) : (s.onEveryOut f).nowHiSnap = s.nowHiSnap := rfl
@[simp] theorem State.onEveryOut_arg0 (f : Chan → ChanRun → ChanRun) : (s.onEveryOut f).arg0 = s.arg0 := rfl
@[simp] theorem State.onEveryOut_arg1 (f : Chan → ChanRun → ChanRun) : (s.onEveryOut f).arg1 = s.arg1 := rfl
@[simp] theorem State.onEveryOut_arg2 (f : Chan → ChanRun → ChanRun) : (s.onEveryOut f).arg2 = s.arg2 := rfl
@[simp] theorem State.onEveryOut_arg3 (f : Chan → ChanRun → ChanRun) : (s.onEveryOut f).arg3 = s.arg3 := rfl
@[simp] theorem State.onEveryOut_err (f : Chan → ChanRun → ChanRun) : (s.onEveryOut f).err = s.err := rfl
@[simp] theorem State.onEveryOut_errCode (f : Chan → ChanRun → ChanRun) : (s.onEveryOut f).errCode = s.errCode := rfl
@[simp] theorem State.onEveryOut_evtOvf (f : Chan → ChanRun → ChanRun) : (s.onEveryOut f).evtOvf = s.evtOvf := rfl
@[simp] theorem State.onEveryOut_irqEn (f : Chan → ChanRun → ChanRun) : (s.onEveryOut f).irqEn = s.irqEn := rfl
@[simp] theorem State.onEveryOut_evq (f : Chan → ChanRun → ChanRun) : (s.onEveryOut f).evq = s.evq := rfl
@[simp] theorem State.onEveryOut_out (f : Chan → ChanRun → ChanRun) : (s.onEveryOut f).out = s.out.mapIdx (fun i o => (runAt f i o).o) := rfl
@[simp] theorem State.onEveryOut_inp (f : Chan → ChanRun → ChanRun) : (s.onEveryOut f).inp = s.inp := rfl
@[simp] theorem State.onEveryOut_touch (f : Chan → ChanRun → ChanRun) : (s.onEveryOut f).touch = s.touch := rfl
@[simp] theorem State.onEveryOut_schedule (f : Chan → ChanRun → ChanRun) : (s.onEveryOut f).schedule = s.schedule := rfl
@[simp] theorem State.onEveryOut_port (f : Chan → ChanRun → ChanRun) : (s.onEveryOut f).port = s.port ++ stamp s.now (s.out.mapIdx (fun i o => (runAt f i o).ops)).flatten := rfl
@[simp] theorem State.onEveryOut_resp (f : Chan → ChanRun → ChanRun) : (s.onEveryOut f).resp = s.resp := rfl

@[simp] theorem State.onOut_cfg (ch : Chan) (f : ChanRun → ChanRun) : (s.onOut ch f).cfg = s.cfg := rfl
@[simp] theorem State.onOut_now (ch : Chan) (f : ChanRun → ChanRun) : (s.onOut ch f).now = s.now := rfl
@[simp] theorem State.onOut_nowHiSnap (ch : Chan) (f : ChanRun → ChanRun) : (s.onOut ch f).nowHiSnap = s.nowHiSnap := rfl
@[simp] theorem State.onOut_arg0 (ch : Chan) (f : ChanRun → ChanRun) : (s.onOut ch f).arg0 = s.arg0 := rfl
@[simp] theorem State.onOut_arg1 (ch : Chan) (f : ChanRun → ChanRun) : (s.onOut ch f).arg1 = s.arg1 := rfl
@[simp] theorem State.onOut_arg2 (ch : Chan) (f : ChanRun → ChanRun) : (s.onOut ch f).arg2 = s.arg2 := rfl
@[simp] theorem State.onOut_arg3 (ch : Chan) (f : ChanRun → ChanRun) : (s.onOut ch f).arg3 = s.arg3 := rfl
@[simp] theorem State.onOut_err (ch : Chan) (f : ChanRun → ChanRun) : (s.onOut ch f).err = s.err := rfl
@[simp] theorem State.onOut_errCode (ch : Chan) (f : ChanRun → ChanRun) : (s.onOut ch f).errCode = s.errCode := rfl
@[simp] theorem State.onOut_evtOvf (ch : Chan) (f : ChanRun → ChanRun) : (s.onOut ch f).evtOvf = s.evtOvf := rfl
@[simp] theorem State.onOut_irqEn (ch : Chan) (f : ChanRun → ChanRun) : (s.onOut ch f).irqEn = s.irqEn := rfl
@[simp] theorem State.onOut_evq (ch : Chan) (f : ChanRun → ChanRun) : (s.onOut ch f).evq = s.evq := rfl
@[simp] theorem State.onOut_out (ch : Chan) (f : ChanRun → ChanRun) : (s.onOut ch f).out = s.out.set ch.toNat (f (ChanRun.start (s.outAt ch))).o := rfl
@[simp] theorem State.onOut_inp (ch : Chan) (f : ChanRun → ChanRun) : (s.onOut ch f).inp = s.inp := rfl
@[simp] theorem State.onOut_touch (ch : Chan) (f : ChanRun → ChanRun) : (s.onOut ch f).touch = s.touch := rfl
@[simp] theorem State.onOut_schedule (ch : Chan) (f : ChanRun → ChanRun) : (s.onOut ch f).schedule = s.schedule := rfl
@[simp] theorem State.onOut_port (ch : Chan) (f : ChanRun → ChanRun) : (s.onOut ch f).port = s.port ++ stamp s.now (f (ChanRun.start (s.outAt ch))).ops := rfl
@[simp] theorem State.onOut_resp (ch : Chan) (f : ChanRun → ChanRun) : (s.onOut ch f).resp = s.resp := rfl

@[simp] theorem State.raise_cfg (code : ErrCode) : (s.raise code).cfg = s.cfg := rfl
@[simp] theorem State.raise_now (code : ErrCode) : (s.raise code).now = s.now := rfl
@[simp] theorem State.raise_nowHiSnap (code : ErrCode) : (s.raise code).nowHiSnap = s.nowHiSnap := rfl
@[simp] theorem State.raise_arg0 (code : ErrCode) : (s.raise code).arg0 = s.arg0 := rfl
@[simp] theorem State.raise_arg1 (code : ErrCode) : (s.raise code).arg1 = s.arg1 := rfl
@[simp] theorem State.raise_arg2 (code : ErrCode) : (s.raise code).arg2 = s.arg2 := rfl
@[simp] theorem State.raise_arg3 (code : ErrCode) : (s.raise code).arg3 = s.arg3 := rfl
@[simp] theorem State.raise_err (code : ErrCode) : (s.raise code).err = true := rfl
@[simp] theorem State.raise_errCode (code : ErrCode) : (s.raise code).errCode = if s.err then s.errCode else code := rfl
@[simp] theorem State.raise_evtOvf (code : ErrCode) : (s.raise code).evtOvf = s.evtOvf := rfl
@[simp] theorem State.raise_irqEn (code : ErrCode) : (s.raise code).irqEn = s.irqEn := rfl
@[simp] theorem State.raise_evq (code : ErrCode) : (s.raise code).evq = s.evq := rfl
@[simp] theorem State.raise_out (code : ErrCode) : (s.raise code).out = s.out := rfl
@[simp] theorem State.raise_inp (code : ErrCode) : (s.raise code).inp = s.inp := rfl
@[simp] theorem State.raise_touch (code : ErrCode) : (s.raise code).touch = s.touch := rfl
@[simp] theorem State.raise_schedule (code : ErrCode) : (s.raise code).schedule = s.schedule := rfl
@[simp] theorem State.raise_port (code : ErrCode) : (s.raise code).port = s.port := rfl
@[simp] theorem State.raise_resp (code : ErrCode) : (s.raise code).resp = s.resp := rfl

@[simp] theorem State.clearErr_cfg : s.clearErr.cfg = s.cfg := rfl
@[simp] theorem State.clearErr_now : s.clearErr.now = s.now := rfl
@[simp] theorem State.clearErr_nowHiSnap : s.clearErr.nowHiSnap = s.nowHiSnap := rfl
@[simp] theorem State.clearErr_arg0 : s.clearErr.arg0 = s.arg0 := rfl
@[simp] theorem State.clearErr_arg1 : s.clearErr.arg1 = s.arg1 := rfl
@[simp] theorem State.clearErr_arg2 : s.clearErr.arg2 = s.arg2 := rfl
@[simp] theorem State.clearErr_arg3 : s.clearErr.arg3 = s.arg3 := rfl
@[simp] theorem State.clearErr_err : s.clearErr.err = false := rfl
@[simp] theorem State.clearErr_errCode : s.clearErr.errCode = .none := rfl
@[simp] theorem State.clearErr_evtOvf : s.clearErr.evtOvf = s.evtOvf := rfl
@[simp] theorem State.clearErr_irqEn : s.clearErr.irqEn = s.irqEn := rfl
@[simp] theorem State.clearErr_evq : s.clearErr.evq = s.evq := rfl
@[simp] theorem State.clearErr_out : s.clearErr.out = s.out := rfl
@[simp] theorem State.clearErr_inp : s.clearErr.inp = s.inp := rfl
@[simp] theorem State.clearErr_touch : s.clearErr.touch = s.touch := rfl
@[simp] theorem State.clearErr_schedule : s.clearErr.schedule = s.schedule := rfl
@[simp] theorem State.clearErr_port : s.clearErr.port = s.port := rfl
@[simp] theorem State.clearErr_resp : s.clearErr.resp = s.resp := rfl

/-! ### Channel accessors after an update -/

theorem State.outAt_eq (ch : Chan) : s.outAt ch = s.out[ch.toNat]?.getD OutCh.reset := by
  simp [State.outAt, List.getD_eq_getElem?_getD]

theorem State.inAt_eq (ch : Chan) : s.inAt ch = s.inp[ch.toNat]?.getD InCh.reset := by
  simp [State.inAt, List.getD_eq_getElem?_getD]

theorem State.touchAt_eq (ch : Chan) : s.touchAt ch = s.touch[ch.toNat]?.getD TouchCh.reset := by
  simp [State.touchAt, List.getD_eq_getElem?_getD]

theorem State.outAt_of_getElem? {ch : Chan} {o : OutCh} (h : s.out[ch.toNat]? = some o) : s.outAt ch = o := by
  simp [State.outAt_eq, h]

theorem State.outAt_mem {ch : Chan} (h : ch.toNat < s.out.length) : s.outAt ch ∈ s.out := by
  simp [State.outAt_eq, h]

theorem State.inAt_mem {ch : Chan} (h : ch.toNat < s.inp.length) : s.inAt ch ∈ s.inp := by
  simp [State.inAt_eq, h]

theorem State.touchAt_mem {ch : Chan} (h : ch.toNat < s.touch.length) : s.touchAt ch ∈ s.touch := by
  simp [State.touchAt_eq, h]

theorem State.setOut_outAt_self {ch : Chan} (o : OutCh) (h : ch.toNat < s.out.length) : (s.setOut ch o).outAt ch = o := by
  simp [State.outAt_eq, h]

theorem State.setOut_outAt_ne {ch k : Chan} (o : OutCh) (h : k ≠ ch) : (s.setOut ch o).outAt k = s.outAt k := by
  have : ch.toNat ≠ k.toNat := fun e => h (BitVec.eq_of_toNat_eq e.symm)
  simp [State.outAt_eq, List.getElem?_set_ne this]

theorem State.setIn_inAt_self {ch : Chan} (c : InCh) (h : ch.toNat < s.inp.length) : (s.setIn ch c).inAt ch = c := by
  simp [State.inAt_eq, h]

theorem State.setIn_inAt_ne {ch k : Chan} (c : InCh) (h : k ≠ ch) : (s.setIn ch c).inAt k = s.inAt k := by
  have : ch.toNat ≠ k.toNat := fun e => h (BitVec.eq_of_toNat_eq e.symm)
  simp [State.inAt_eq, List.getElem?_set_ne this]

theorem State.setTouch_touchAt_self {ch : Chan} (t : TouchCh) (h : ch.toNat < s.touch.length) :
    (s.setTouch ch t).touchAt ch = t := by
  simp [State.touchAt_eq, h]

theorem State.setTouch_touchAt_ne {ch k : Chan} (t : TouchCh) (h : k ≠ ch) : (s.setTouch ch t).touchAt k = s.touchAt k := by
  have : ch.toNat ≠ k.toNat := fun e => h (BitVec.eq_of_toNat_eq e.symm)
  simp [State.touchAt_eq, List.getElem?_set_ne this]

theorem State.onOut_outAt_self {ch : Chan} (f : ChanRun → ChanRun) (h : ch.toNat < s.out.length) :
    (s.onOut ch f).outAt ch = (f (ChanRun.start (s.outAt ch))).o := by
  simp [State.outAt_eq, h]

theorem State.onOut_outAt_ne {ch k : Chan} (f : ChanRun → ChanRun) (h : k ≠ ch) : (s.onOut ch f).outAt k = s.outAt k :=
  State.setOut_outAt_ne s _ h

theorem State.onEveryOut_getElem? (f : Chan → ChanRun → ChanRun) (i : Nat) :
    (s.onEveryOut f).out[i]? = s.out[i]?.map (fun o => (runAt f i o).o) := by
  simp

end Sys2Proof.Machine
end

