-- ==== Sys2Proof/Laws/Ops.lean ====
section
/-! SUPPORT. What the shared operations can do, once each: the port, refusing, pushing, and the checks of a command. -/

namespace Sys2Proof.Machine

/-! ### The port -/

@[simp] theorem stamp_nil (now : Time) : stamp now [] = [] := rfl

@[simp] theorem stamp_append (now : Time) (a b : List PinOp) : stamp now (a ++ b) = stamp now a ++ stamp now b := by
  simp [stamp]

@[simp] theorem stamp_map_op (now : Time) (l : List PinOp) : (stamp now l).map (fun e => e.op) = l := by
  simp [stamp, Function.comp_def]

@[simp] theorem emitted_self (s : State) : emitted s s = [] := by simp [emitted]

theorem emitted_of_port {s t : State} {l : List PortEntry} (h : t.port = s.port ++ l) : emitted s t = l := by
  simp [emitted, h]

theorem emitted_trans {s t u : State} {a b : List PortEntry} (h₁ : t.port = s.port ++ a) (h₂ : u.port = t.port ++ b) :
    emitted s u = a ++ b := by
  simp [emitted, h₁, h₂, List.append_assoc]

@[simp] theorem outOps_nil (ch : Chan) : outOps ch [] = [] := rfl

@[simp] theorem outOps_append (ch : Chan) (a b : List PortEntry) : outOps ch (a ++ b) = outOps ch a ++ outOps ch b := by
  simp [outOps]

theorem outOps_stamp (ch : Chan) (now : Time) (l : List PinOp) :
    outOps ch (stamp now l) = l.filter (fun op => decide (op.chan = ch ∧ op.kind.toNat ≤ 4)) := by
  simp [outOps]

@[simp] theorem inOps_nil (ch : Chan) : inOps ch [] = [] := rfl

theorem inOps_stamp (ch : Chan) (now : Time) (l : List PinOp) :
    inOps ch (stamp now l) = l.filter (fun op => decide (op.chan = ch ∧ 5 ≤ op.kind.toNat)) := by
  simp [inOps]

@[simp] theorem ChanRun.start_o (o : OutCh) : (ChanRun.start o).o = o := rfl

@[simp] theorem ChanRun.start_ops (o : OutCh) : (ChanRun.start o).ops = [] := rfl

@[simp] theorem ChanRun.emit_o (r : ChanRun) (op : PinOp) : (r.emit op).o = r.o := rfl

@[simp] theorem ChanRun.emit_ops (r : ChanRun) (op : PinOp) : (r.emit op).ops = r.ops ++ [op] := rfl

/-! ### Work on channels: the frame and what is emitted -/

theorem onOut_frame (s : State) (ch : Chan) (f : ChanRun → ChanRun) : OutFrame s (s.onOut ch f) ch := by
  refine ⟨rfl, by simp, fun k hk => ?_, ⟨_, rfl⟩⟩
  simp [List.getElem?_set_ne (Ne.symm hk)]

theorem onOut_emitted (s : State) (ch : Chan) (f : ChanRun → ChanRun) :
    emitted s (s.onOut ch f) = stamp s.now (f (ChanRun.start (s.outAt ch))).ops :=
  emitted_of_port (by simp)

/-- A procedure that leaves the record as it is only emits. -/
theorem onOut_of_fixed {s : State} {ch : Chan} {f : ChanRun → ChanRun} (hl : ch.toNat < s.out.length)
    (h : (f (ChanRun.start (s.outAt ch))).o = s.outAt ch) :
    s.onOut ch f = s.emit (f (ChanRun.start (s.outAt ch))).ops := by
  have e : s.out.set ch.toNat (s.outAt ch) = s.out := by
    simp [State.outAt_eq, hl]
  simp only [State.onOut, State.setOut, h, e]

theorem setIn_emit_frame (s : State) (ch : Chan) (c : InCh) (ops : List PinOp) : InFrame s ((s.setIn ch c).emit ops) ch := by
  refine ⟨rfl, by simp, fun k hk => ?_, ⟨_, rfl⟩⟩
  simp [List.getElem?_set_ne (Ne.symm hk)]

theorem setTouch_frame (s : State) (ch : Chan) (t : TouchCh) : TouchFrame s (s.setTouch ch t) ch := by
  refine ⟨rfl, by simp, fun k hk => ?_⟩
  simp [List.getElem?_set_ne (Ne.symm hk)]

theorem onEveryOut_emitted (s : State) (f : Chan → ChanRun → ChanRun) :
    emitted s (s.onEveryOut f) = stamp s.now (s.out.mapIdx (fun i o => (runAt f i o).ops)).flatten :=
  emitted_of_port (by simp)

/-! ### Pushing -/

/-- Everything `push` can do: append to a queue with room, or set EVT_OVF. -/
theorem push_cases (s : State) (r : Word) :
    (s.evq.length < s.cfg.evqDepth ∧ s.push r = { s with evq := s.evq ++ [r] }) ∨
      (s.cfg.evqDepth ≤ s.evq.length ∧ s.push r = { s with evtOvf := true }) := by
  unfold State.push
  split
  · exact .inl ⟨‹_›, rfl⟩
  · exact .inr ⟨Nat.le_of_not_lt ‹_›, rfl⟩

/-- Pushing changes EVQ and EVT_OVF only. -/
theorem push_frame (s : State) (r : Word) : s.push r = { s with evq := (s.push r).evq, evtOvf := (s.push r).evtOvf } := by
  obtain ⟨-, h⟩ | ⟨-, h⟩ := push_cases s r <;> rw [h]

/-- `pushAll`, the specification of several pushes: as many records as fit, and EVT_OVF if one does not. -/
def State.pushAll (s : State) (l : List Word) : State :=
  { s with evq := (s.evq ++ l).take s.cfg.evqDepth, evtOvf := s.evtOvf || decide (s.cfg.evqDepth < s.evq.length + l.length) }

theorem pushAll_nil {s : State} (h : s.evq.length ≤ s.cfg.evqDepth) : s.pushAll [] = s := by
  simp [State.pushAll, List.take_of_length_le h, Nat.not_lt.mpr h]

theorem pushAll_length {s : State} (l : List Word) : (s.pushAll l).evq.length ≤ (s.pushAll l).cfg.evqDepth := by
  simp only [State.pushAll, List.length_take]
  omega

theorem pushAll_append (s : State) (a b : List Word) :
    (s.pushAll a).pushAll b = s.pushAll (a ++ b) := by
  simp only [State.pushAll, List.length_take, List.length_append]
  congr 1
  · cases s.evtOvf <;> simp
    have : (decide (s.cfg.evqDepth < s.evq.length + a.length) ||
      decide (s.cfg.evqDepth < min s.cfg.evqDepth (s.evq.length + a.length) + b.length)) =
        decide (s.cfg.evqDepth < s.evq.length + (a.length + b.length)) := by
      rw [← Bool.decide_or, decide_eq_decide]
      omega
    simpa using this
  · rw [← List.append_assoc s.evq a b]
    by_cases hl : s.cfg.evqDepth ≤ (s.evq ++ a).length
    · rw [List.take_append_of_le_length (l₁ := s.evq ++ a) hl, List.take_append_of_le_length (by
        rw [List.length_take]; omega), List.take_take, Nat.min_self]
    · rw [List.take_of_length_le (by omega : (s.evq ++ a).length ≤ s.cfg.evqDepth)]

theorem push_eq_pushAll {s : State} (h : s.evq.length ≤ s.cfg.evqDepth) (r : Word) : s.push r = s.pushAll [r] := by
  obtain ⟨hl, e⟩ | ⟨hl, e⟩ := push_cases s r <;> rw [e]
  · have h1 : ¬ s.cfg.evqDepth < s.evq.length + 1 := by omega
    have h2 : (s.evq ++ [r]).length ≤ s.cfg.evqDepth := by rw [List.length_append]; simpa using hl
    simp [State.pushAll, List.take_of_length_le h2, h1]
  · have : s.evq.length = s.cfg.evqDepth := by omega
    simp [State.pushAll, ← this]

theorem pushIf_eq_pushAll {s : State} (h : s.evq.length ≤ s.cfg.evqDepth) (v : Bool) (r : Word) :
    s.pushIf v r = s.pushAll (if v = true then [r] else []) := by
  cases v
  · simp [State.pushIf, pushAll_nil h]
  · simp [State.pushIf, push_eq_pushAll h]

/-! ### Refusing and checking -/

/-- A refusal records its code and changes nothing else (R121). -/
theorem raise_eq (s : State) (code : ErrCode) :
    s.raise code = { s with err := true, errCode := if s.err then s.errCode else code } := rfl

theorem unlessBusy_of_busy {s : State} (h : s.busy = true) (k : State → Host.Outcome State Fault Refusal) :
    unlessBusy s k = .next (s.raise .busy) := by
  simp [unlessBusy, h, refuse]

theorem unlessBusy_of_ready {s : State} (h : s.busy = false) (k : State → Host.Outcome State Fault Refusal) :
    unlessBusy s k = k s := by
  simp [unlessBusy, h]

theorem checked_of_busy {s : State} (h : s.busy = true) (u : PsbUnit) (ch : Chan)
    (k : State → Host.Outcome State Fault Refusal) : checked u ch s k = .next (s.raise .busy) :=
  unlessBusy_of_busy h _

theorem checked_of_badChannel {s : State} {u : PsbUnit} {ch : Chan} (h : s.busy = false) (hc : ¬ s.cfg.HasChannel u ch)
    (k : State → Host.Outcome State Fault Refusal) : checked u ch s k = .next (s.raise .badChannel) := by
  rw [checked, unlessBusy_of_ready h, if_neg hc, refuse]

theorem checked_of_ready {s : State} {u : PsbUnit} {ch : Chan} (h : s.busy = false) (hc : s.cfg.HasChannel u ch)
    (k : State → Host.Outcome State Fault Refusal) : checked u ch s k = k s := by
  rw [checked, unlessBusy_of_ready h, if_pos hc]

/-- Everything `checked` can do. -/
theorem checked_cases (u : PsbUnit) (ch : Chan) (s : State) (k : State → Host.Outcome State Fault Refusal) :
    (s.busy = true ∧ checked u ch s k = .next (s.raise .busy)) ∨
      (s.busy = false ∧ ¬ s.cfg.HasChannel u ch ∧ checked u ch s k = .next (s.raise .badChannel)) ∨
      (s.busy = false ∧ s.cfg.HasChannel u ch ∧ checked u ch s k = k s) := by
  cases hb : s.busy
  · by_cases hc : s.cfg.HasChannel u ch
    · exact .inr (.inr ⟨rfl, hc, checked_of_ready hb hc k⟩)
    · exact .inr (.inl ⟨rfl, hc, checked_of_badChannel hb hc k⟩)
  · exact .inl ⟨rfl, checked_of_busy hb u ch k⟩

end Sys2Proof.Machine
end

