-- ==== Sys2Proof/Laws/Engine.lean ====
section
/-! SUPPORT. One lemma for each procedure of the effect engine and of the timed outputs: the record it leaves and the operations
it appends; and the bounds and the monotonicity of the duty formulas. -/

namespace Sys2Proof.Machine

/-! ### Rounding -/

/-- `rdiv` is n/d or n/d + 1, and the latter only if the remainder is at least half of d. -/
theorem rdiv_cases (r : Rounding) (n d : Nat) :
    (rdiv r n d = n / d ∧ 2 * (n % d) ≤ d) ∨ (rdiv r n d = n / d + 1 ∧ d ≤ 2 * (n % d)) := by
  simp only [rdiv]
  split
  · exact .inl ⟨rfl, by omega⟩
  · split
    · exact .inr ⟨rfl, by omega⟩
    · cases r
      · rcases Nat.mod_two_eq_zero_or_one (n / d) with h | h
        · exact .inl ⟨by simp [h], by omega⟩
        · exact .inr ⟨by simp [h], by omega⟩
      · exact .inr ⟨rfl, by omega⟩

theorem rdiv_zero_left (r : Rounding) {d : Nat} (h : 0 < d) : rdiv r 0 d = 0 := by
  simp [rdiv, h]

theorem rdiv_mul (r : Rounding) (k : Nat) {d : Nat} (h : 0 < d) : rdiv r (k * d) d = k := by
  simp [rdiv, Nat.mul_div_cancel k h, h]

/-- Rounding is monotone in the numerator (R87): with equal quotients the smaller remainder rounds to the smaller number. -/
theorem rdiv_mono (r : Rounding) {m n : Nat} (d : Nat) (h : m ≤ n) : rdiv r m d ≤ rdiv r n d := by
  have hq : m / d ≤ n / d := Nat.div_le_div_right h
  rcases Nat.lt_or_ge (m / d) (n / d) with hlt | hge
  · have h1 := rdiv_cases r m d
    have h2 := rdiv_cases r n d
    omega
  · have he : m / d = n / d := Nat.le_antisymm hq hge
    have hm := Nat.div_add_mod m d
    have hn := Nat.div_add_mod n d
    rw [he] at hm
    have hr : m % d ≤ n % d := by omega
    have hm2 := Nat.mod_lt (n / d) (by omega : 0 < 2)
    cases r <;> simp only [rdiv, he] <;> split <;> split <;> (try split) <;> (try split) <;> omega

theorem rdiv_le (r : Rounding) {n k d : Nat} (hd : 0 < d) (h : n ≤ k * d) : rdiv r n d ≤ k := by
  simpa [rdiv_mul r k hd] using rdiv_mono r d h

theorem le_rdiv (r : Rounding) {n k d : Nat} (hd : 0 < d) (h : k * d ≤ n) : k ≤ rdiv r n d := by
  simpa [rdiv_mul r k hd] using rdiv_mono r d h

theorem dutyOf_toNat {n : Nat} (h : n ≤ 100) : (dutyOf n).toNat = n := by
  simp [dutyOf]
  omega

@[simp] theorem dutyOf_zero : dutyOf 0 = 0 := rfl

@[simp] theorem dutyOf_hundred : dutyOf 100 = 100 := rfl

theorem pulseAt_le (r : Rounding) (o : OutCh) (d : Nat) : (pulseAt r o d).2 ≤ 100 := by
  simp only [pulseAt]
  split
  · rename_i h
    by_cases ha : o.tOn.toNat = 0
    · simp [ha]
    · simp only [ha, if_false]
      exact rdiv_le r (by omega) (by omega)
  · split
    · exact Nat.le_refl _
    · split
      · exact rdiv_le r (by omega) (by omega)
      · exact Nat.zero_le _

/-- A fade sample is a convex combination of the two duties (R89). -/
theorem fadeAt_between (r : Rounding) (o : OutCh) {e : Nat} (h : e < o.fDur.toNat) :
    min o.fStart.toNat o.fEnd.toNat ≤ fadeAt r o e ∧ fadeAt r o e ≤ max o.fStart.toNat o.fEnd.toNat := by
  obtain ⟨k, hk⟩ := Nat.exists_eq_add_of_le (Nat.le_of_lt h)
  have hs : o.fDur.toNat - e = k := by omega
  have hd : 0 < o.fDur.toNat := by omega
  refine ⟨le_rdiv r hd ?_, rdiv_le r hd ?_⟩
  · rw [hs]
    calc min o.fStart.toNat o.fEnd.toNat * o.fDur.toNat
        = min o.fStart.toNat o.fEnd.toNat * k + min o.fStart.toNat o.fEnd.toNat * e := by rw [hk]; ring
      _ ≤ _ := Nat.add_le_add (Nat.mul_le_mul_right _ (Nat.min_le_left _ _)) (Nat.mul_le_mul_right _ (Nat.min_le_right _ _))
  · rw [hs]
    calc o.fStart.toNat * k + o.fEnd.toNat * e
        ≤ max o.fStart.toNat o.fEnd.toNat * k + max o.fStart.toNat o.fEnd.toNat * e :=
          Nat.add_le_add (Nat.mul_le_mul_right _ (Nat.le_max_left _ _)) (Nat.mul_le_mul_right _ (Nat.le_max_right _ _))
      _ = _ := by rw [hk]; ring

/-! ### The background task -/

theorem cancelEngine_o (ch : Chan) (r : ChanRun) :
    (cancelEngine ch r).o =
      { r.o with engine := .none, duty := if r.o.engine = .pulse then 0 else r.o.duty } := by
  obtain ⟨o, ops⟩ := r
  cases o with | mk effect engine => cases engine <;> rfl

theorem cancelEngine_ops (ch : Chan) (r : ChanRun) : (cancelEngine ch r).ops = r.ops ++ teardownOps ch r.o := by
  obtain ⟨o, ops⟩ := r
  cases o with | mk effect engine => cases engine <;> simp [cancelEngine, teardownOps]

/-- What `ensure_carrier` emits (R83). -/
def carrierOps (carrier : Word) (ch : Chan) (o : OutCh) : List PinOp :=
  if o.blinking = false then [.setPwm ch carrier 0] else if o.period = carrier then [] else [.changeFreq ch carrier]

theorem ensureCarrier_o (carrier : Word) (ch : Chan) (r : ChanRun) :
    (ensureCarrier carrier ch r).o =
      { r.o with period := carrier, duty := if r.o.blinking then r.o.duty else 0 } := by
  cases h : r.o.blinking
  · simp [ensureCarrier, h]
  · by_cases hp : r.o.period = carrier
    · simp [ensureCarrier, h, ← hp]
    · simp [ensureCarrier, h, hp]

theorem ensureCarrier_ops (carrier : Word) (ch : Chan) (r : ChanRun) :
    (ensureCarrier carrier ch r).ops = r.ops ++ carrierOps carrier ch r.o := by
  cases h : r.o.blinking
  · simp [ensureCarrier, carrierOps, h]
  · by_cases hp : r.o.period = carrier <;> simp [ensureCarrier, carrierOps, h, hp]

@[simp] theorem pulseEval_ops (rd : Rounding) (now : Time) (ch : Chan) (r : ChanRun) :
    (pulseEval rd now ch r).ops = r.ops ++ [.changeDuty ch (pulseEval rd now ch r).o.duty] := rfl

theorem pulseEval_o (rd : Rounding) (now : Time) (ch : Chan) (r : ChanRun) :
    (pulseEval rd now ch r).o = { r.o with
      duty := dutyOf (pulseAt rd r.o (elapsed now r.o % r.o.pperiod.toNat)).2,
      phase := (pulseAt rd r.o (elapsed now r.o % r.o.pperiod.toNat)).1 } := rfl

theorem fadeEval_ops (rd : Rounding) (now : Time) (ch : Chan) (r : ChanRun) :
    (fadeEval rd now ch r).ops = r.ops ++ [.changeDuty ch (fadeEval rd now ch r).o.duty] := by
  by_cases h : r.o.fDur.toNat ≤ elapsed now r.o <;> simp [fadeEval, h]

theorem fadeEval_o (rd : Rounding) (now : Time) (ch : Chan) (r : ChanRun) :
    (fadeEval rd now ch r).o = { r.o with
      duty := if r.o.fDur.toNat ≤ elapsed now r.o then r.o.fEnd else dutyOf (fadeAt rd r.o (elapsed now r.o)),
      engine := if r.o.fDur.toNat ≤ elapsed now r.o then .none else r.o.engine } := by
  by_cases h : r.o.fDur.toNat ≤ elapsed now r.o <;> simp [fadeEval, h]

theorem fadeEval_done {now : Time} {r : ChanRun} (rd : Rounding) (ch : Chan) (h : r.o.fDur.toNat ≤ (now - r.o.start).toNat) :
    (fadeEval rd now ch r).o = { r.o with duty := r.o.fEnd, engine := .none } := by
  have h' : r.o.fDur.toNat ≤ elapsed now r.o := h
  rw [fadeEval_o, if_pos h', if_pos h']

theorem fadeEval_running {now : Time} {r : ChanRun} (rd : Rounding) (ch : Chan)
    (h : (now - r.o.start).toNat < r.o.fDur.toNat) :
    (fadeEval rd now ch r).o = { r.o with duty := dutyOf (fadeAt rd r.o (now - r.o.start).toNat) } := by
  have h' : ¬ r.o.fDur.toNat ≤ elapsed now r.o := Nat.not_le_of_lt h
  rw [fadeEval_o, if_neg h', if_neg h']
  rfl

/-! ### One channel's part of a time step -/

/-- A settle delay that ends now (R78). -/
theorem settleExpiry_due {now : Time} {r : ChanRun} (ch : Chan) (h : r.o.settle = true ∧ now = r.o.settleDl) :
    settleExpiry now ch r =
      { o := { r.o with level := true, settle := false }, ops := r.ops ++ [.writeDigital ch true] } := by
  rw [settleExpiry, if_pos h]
  rfl

theorem settleExpiry_not_due {now : Time} {r : ChanRun} (ch : Chan) (h : ¬ (r.o.settle = true ∧ now = r.o.settleDl)) :
    settleExpiry now ch r = r := if_neg h

theorem settleExpiry_engine (now : Time) (ch : Chan) (r : ChanRun) : (settleExpiry now ch r).o.engine = r.o.engine := by
  by_cases h : r.o.settle = true ∧ now = r.o.settleDl
  · rw [settleExpiry_due ch h]
  · rw [settleExpiry_not_due ch h]

theorem engineTick_none {r : ChanRun} (rd : Rounding) (now : Time) (ch : Chan) (h : r.o.engine = .none) :
    engineTick rd now ch r = r := by
  simp [engineTick, h]

theorem engineTick_pulse_due {r : ChanRun} {now : Time} (rd : Rounding) (ch : Chan) (h : r.o.engine = .pulse)
    (hg : (now - r.o.start).toNat % 20 = 0) : engineTick rd now ch r = pulseEval rd now ch r := by
  rw [engineTick, h]
  exact if_pos hg

theorem engineTick_pulse_off_grid {r : ChanRun} {now : Time} (rd : Rounding) (ch : Chan) (h : r.o.engine = .pulse)
    (hg : (now - r.o.start).toNat % 20 ≠ 0) : engineTick rd now ch r = r := by
  rw [engineTick, h]
  exact if_neg hg

theorem engineTick_fade_due {r : ChanRun} {now : Time} (rd : Rounding) (ch : Chan) (h : r.o.engine = .fade)
    (hg : (now - r.o.start).toNat % 100 = 0) : engineTick rd now ch r = fadeEval rd now ch r := by
  rw [engineTick, h]
  exact if_pos hg

theorem engineTick_fade_off_grid {r : ChanRun} {now : Time} (rd : Rounding) (ch : Chan) (h : r.o.engine = .fade)
    (hg : (now - r.o.start).toNat % 100 ≠ 0) : engineTick rd now ch r = r := by
  rw [engineTick, h]
  exact if_neg hg

/-! ### The timed outputs -/

@[simp] theorem OutCh.blinking_engine_duty (o : OutCh) (e : Engine) (d : Duty) :
    OutCh.blinking { o with engine := e, duty := d } = o.blinking := rfl

/-- WRITE settles from a blinking state into level 1 (R91). -/
abbrev Settles (o : OutCh) (v : Bool) : Prop := o.blinking = true ∧ v = true

theorem doWrite_o (now : Time) (ch : Chan) (v : Bool) (r : ChanRun) :
    (doWrite now ch v r).o =
      if Settles r.o v then
        { r.o with engine := .none, effect := .writing, duty := 100, settle := true, settleDl := now + SETTLE_TIME }
      else { r.o with engine := .none, effect := .writing, duty := 100, level := v } := by
  by_cases h : Settles r.o v <;> simp [doWrite, h, cancelEngine_o]

theorem doWrite_ops (now : Time) (ch : Chan) (v : Bool) (r : ChanRun) :
    (doWrite now ch v r).ops = r.ops ++ teardownOps ch r.o ++ [.changeDuty ch 100, .stopPwm ch] ++
      if Settles r.o v then [] else [.writeDigital ch v] := by
  by_cases h : Settles r.o v <;> simp [doWrite, h, cancelEngine_ops]

theorem doWrite_of_settles {now : Time} {v : Bool} {r : ChanRun} (ch : Chan) (h : Settles r.o v) :
    doWrite now ch v r =
      { o := { r.o with engine := .none, effect := .writing, duty := 100, settle := true, settleDl := now + SETTLE_TIME },
        ops := r.ops ++ teardownOps ch r.o ++ [.changeDuty ch 100, .stopPwm ch] } := by
  have ho := doWrite_o now ch v r
  have hp := doWrite_ops now ch v r
  rw [if_pos h] at ho hp
  rw [List.append_nil] at hp
  rw [← ho, ← hp]

theorem doWrite_of_not_settles {now : Time} {v : Bool} {r : ChanRun} (ch : Chan) (h : ¬ Settles r.o v) :
    doWrite now ch v r =
      { o := { r.o with engine := .none, effect := .writing, duty := 100, level := v },
        ops := r.ops ++ teardownOps ch r.o ++ [.changeDuty ch 100, .stopPwm ch] ++ [.writeDigital ch v] } := by
  have ho := doWrite_o now ch v r
  have hp := doWrite_ops now ch v r
  rw [if_neg h] at ho hp
  rw [← ho, ← hp]

theorem doBlink_o (rd : Rounding) (on off : Word) (ch : Chan) (r : ChanRun) :
    (doBlink rd on off ch r).o = { r.o with
      engine := .none, effect := .blinking, period := blinkPeriod on off, duty := blinkDuty rd on off } := by
  simp [doBlink, cancelEngine_o]

theorem doBlink_ops (rd : Rounding) (on off : Word) (ch : Chan) (r : ChanRun) :
    (doBlink rd on off ch r).ops = r.ops ++ teardownOps ch r.o ++
      if r.o.blinking then [.changeFreq ch (blinkPeriod on off), .changeDuty ch (blinkDuty rd on off)]
      else [.setPwm ch (blinkPeriod on off) (blinkDuty rd on off)] := by
  cases h : r.o.blinking <;> simp [doBlink, cancelEngine_o, cancelEngine_ops, h]

theorem doStop_o (ch : Chan) (r : ChanRun) :
    (doStop ch r).o = { r.o with
      engine := .none, effect := .idle, duty := if r.o.engine = .pulse then 0 else r.o.duty } := by
  simp [doStop, cancelEngine_o]

theorem doStop_ops (ch : Chan) (r : ChanRun) : (doStop ch r).ops = r.ops ++ teardownOps ch r.o ++ [.stopPwm ch] := by
  simp [doStop, cancelEngine_ops]

theorem startPulse_ops (cfg : Params) (now : Time) (p : Profile) (ch : Chan) (r : ChanRun) :
    (startPulse cfg now p ch r).ops = r.ops ++ teardownOps ch r.o ++ carrierOps cfg.carrierPeriod ch r.o ++
      [.changeDuty ch (startPulse cfg now p ch r).o.duty] := by
  simp [startPulse, ensureCarrier_ops, cancelEngine_ops, cancelEngine_o, carrierOps]

theorem startFade_ops (cfg : Params) (now : Time) (a b : Duty) (d : Word) (ch : Chan) (r : ChanRun) :
    (startFade cfg now a b d ch r).ops = r.ops ++ teardownOps ch r.o ++ carrierOps cfg.carrierPeriod ch r.o ++
      [.changeDuty ch (startFade cfg now a b d ch r).o.duty] := by
  simp [startFade, fadeEval_ops, ensureCarrier_ops, cancelEngine_ops, cancelEngine_o, carrierOps]

end Sys2Proof.Machine
end

