-- ==== Sys2Proof/Laws/Channels.lean ====
section
/-! SUPPORT. A procedure of output channel `ch` emits operations of that channel only, so that what a transition emitted for one
channel is what that channel's own procedure emitted (R76, R100). -/

namespace Sys2Proof.Machine

/-- Operations on output channel `ch` (kinds 0 to 4 of R130). -/
abbrev OnChannel (ch : Chan) (l : List PinOp) : Prop := ∀ op ∈ l, op.chan = ch ∧ op.kind.toNat ≤ 4

/-- A procedure that appends operations of its own channel only. -/
def Local (ch : Chan) (f : ChanRun → ChanRun) : Prop := ∀ r, ∃ l, (f r).ops = r.ops ++ l ∧ OnChannel ch l

theorem onChannel_teardownOps (ch : Chan) (o : OutCh) : OnChannel ch (teardownOps ch o) := by
  unfold teardownOps
  split <;> simp [OnChannel, PinOp.chan, PinOp.kind]

theorem onChannel_carrierOps (c : Word) (ch : Chan) (o : OutCh) : OnChannel ch (carrierOps c ch o) := by
  unfold carrierOps
  split
  · simp [OnChannel, PinOp.chan, PinOp.kind]
  · split <;> simp [OnChannel, PinOp.chan, PinOp.kind]

theorem local_doWrite (now : Time) (ch : Chan) (v : Bool) : Local ch (doWrite now ch v) := by
  refine fun r => ⟨_, by rw [doWrite_ops, List.append_assoc, List.append_assoc], ?_⟩
  have := onChannel_teardownOps ch r.o
  split <;> simpa [OnChannel, or_imp, forall_and, PinOp.chan, PinOp.kind] using this

theorem local_doBlink (rd : Rounding) (on off : Word) (ch : Chan) : Local ch (doBlink rd on off ch) := by
  refine fun r => ⟨_, by rw [doBlink_ops, List.append_assoc], ?_⟩
  have := onChannel_teardownOps ch r.o
  split <;> simpa [OnChannel, or_imp, forall_and, PinOp.chan, PinOp.kind] using this

theorem local_doStop (ch : Chan) : Local ch (doStop ch) := by
  refine fun r => ⟨_, by rw [doStop_ops, List.append_assoc], ?_⟩
  have := onChannel_teardownOps ch r.o
  simpa [OnChannel, or_imp, forall_and, PinOp.chan, PinOp.kind] using this

theorem local_startPulse (cfg : Params) (now : Time) (p : Profile) (ch : Chan) : Local ch (startPulse cfg now p ch) := by
  refine fun r => ⟨_, by rw [startPulse_ops, List.append_assoc, List.append_assoc], ?_⟩
  have := onChannel_teardownOps ch r.o
  have := onChannel_carrierOps cfg.carrierPeriod ch r.o
  simp_all [OnChannel, or_imp, forall_and, PinOp.chan, PinOp.kind]

theorem local_startFade (cfg : Params) (now : Time) (a b : Duty) (d : Word) (ch : Chan) :
    Local ch (startFade cfg now a b d ch) := by
  refine fun r => ⟨_, by rw [startFade_ops, List.append_assoc, List.append_assoc], ?_⟩
  have := onChannel_teardownOps ch r.o
  have := onChannel_carrierOps cfg.carrierPeriod ch r.o
  simp_all [OnChannel, or_imp, forall_and, PinOp.chan, PinOp.kind]

theorem local_settleExpiry (now : Time) (ch : Chan) : Local ch (settleExpiry now ch) := by
  intro r
  by_cases h : r.o.settle = true ∧ now = r.o.settleDl
  · exact ⟨[.writeDigital ch true], by simp [settleExpiry, h], by simp [OnChannel, PinOp.chan, PinOp.kind]⟩
  · exact ⟨[], by simp [settleExpiry, h], by simp [OnChannel]⟩

theorem local_engineTick (rd : Rounding) (now : Time) (ch : Chan) : Local ch (engineTick rd now ch) := by
  intro r
  unfold engineTick
  split
  · split
    · exact ⟨_, pulseEval_ops rd now ch r, by simp [OnChannel, PinOp.chan, PinOp.kind]⟩
    · exact ⟨[], by simp, by simp [OnChannel]⟩
  · split
    · exact ⟨_, fadeEval_ops rd now ch r, by simp [OnChannel, PinOp.chan, PinOp.kind]⟩
    · exact ⟨[], by simp, by simp [OnChannel]⟩
  · exact ⟨[], by simp, by simp [OnChannel]⟩

theorem Local.comp {ch : Chan} {f g : ChanRun → ChanRun} (hf : Local ch f) (hg : Local ch g) : Local ch (fun r => g (f r)) := by
  intro r
  obtain ⟨l, hl, cl⟩ := hf r
  obtain ⟨m, hm, cm⟩ := hg (f r)
  refine ⟨l ++ m, by rw [hm, hl, List.append_assoc], fun op ho => ?_⟩
  exact (List.mem_append.mp ho).elim (cl op) (cm op)

theorem local_channelTick (rd : Rounding) (now : Time) (ch : Chan) : Local ch (channelTick rd now ch) :=
  (local_settleExpiry now ch).comp (local_engineTick rd now ch)

theorem Local.onChannel_start {ch : Chan} {f : ChanRun → ChanRun} (h : Local ch f) (o : OutCh) :
    OnChannel ch (f (ChanRun.start o)).ops := by
  obtain ⟨l, hl, cl⟩ := h (ChanRun.start o)
  simpa [hl] using cl

theorem outOps_stamp_same {ch : Chan} {l : List PinOp} (h : OnChannel ch l) (now : Time) : outOps ch (stamp now l) = l := by
  rw [outOps_stamp]
  exact List.filter_eq_self.mpr (fun op ho => by simpa using h op ho)

theorem outOps_stamp_other {ch k : Chan} {l : List PinOp} (h : OnChannel ch l) (hk : ch ≠ k) (now : Time) :
    outOps k (stamp now l) = [] := by
  rw [outOps_stamp]
  exact List.filter_eq_nil_iff.mpr (fun op ho => by simp [(h op ho).1, hk])

/-- What a procedure run on one channel emitted for that channel. -/
theorem onOut_outOps_self (s : State) {ch : Chan} {f : ChanRun → ChanRun} (h : Local ch f) :
    outOps ch (emitted s (s.onOut ch f)) = (f (ChanRun.start (s.outAt ch))).ops := by
  rw [onOut_emitted, outOps_stamp_same (h.onChannel_start _)]

/-- It emitted nothing for another channel. -/
theorem onOut_outOps_other (s : State) {ch k : Chan} {f : ChanRun → ChanRun} (h : Local ch f) (hk : ch ≠ k) :
    outOps k (emitted s (s.onOut ch f)) = [] := by
  rw [onOut_emitted, outOps_stamp_other (h.onChannel_start _) hk]

/-- The part of a loop over channels `n`, `n+1`, ... that belongs to channel `ch`. -/
theorem outOps_loop {f : Chan → ChanRun → ChanRun} (hf : ∀ ch, Local ch (f ch)) (now : Time) (ch : Chan) (l : List OutCh)
    (n : Nat) (hn : n + l.length ≤ 16) :
    outOps ch (stamp now (l.mapIdx (fun i o => (runAt f (n + i) o).ops)).flatten) =
      if n ≤ ch.toNat then ((l[ch.toNat - n]?).map (fun o => (runAt f ch.toNat o).ops)).getD [] else [] := by
  induction l generalizing n with
  | nil => simp
  | cons o l ih =>
    have hl : n + 1 + l.length ≤ 16 := by simp only [List.length_cons] at hn; omega
    have hlt : n < 16 := by simp only [List.length_cons] at hn; omega
    have ih' := ih (n + 1) hl
    have e : (fun i o => (runAt f (n + (i + 1)) o).ops) = fun i o => (runAt f (n + 1 + i) o).ops := by
      funext i o; rw [show n + (i + 1) = n + 1 + i from by omega]
    rw [List.mapIdx_cons, List.flatten_cons, stamp_append, outOps_append, e, ih']
    have hloc : OnChannel (BitVec.ofNat 4 n) (runAt f n o).ops := (hf _).onChannel_start o
    by_cases hc : n = ch.toNat
    · have hch : BitVec.ofNat 4 n = ch := by subst hc; simp
      rw [Nat.add_zero, outOps_stamp_same (hch ▸ hloc)]
      simp [hc]
    · have hch : BitVec.ofNat 4 n ≠ ch := by
        intro h
        apply hc
        rw [← h]
        simp
        omega
      rw [Nat.add_zero, outOps_stamp_other hloc hch]
      by_cases hle : n + 1 ≤ ch.toNat
      · have : ch.toNat - n = ch.toNat - (n + 1) + 1 := by omega
        simp [hle, show n ≤ ch.toNat by omega, this]
      · simp [hle, show ¬ n ≤ ch.toNat by omega]

/-- What a loop over every channel emitted for channel `ch`: what the procedure emits on it. -/
theorem onEveryOut_outOps (s : State) {f : Chan → ChanRun → ChanRun} (hf : ∀ ch, Local ch (f ch)) (ch : Chan)
    (hl : s.out.length ≤ 16) :
    outOps ch (emitted s (s.onEveryOut f)) = ((s.out[ch.toNat]?).map (fun o => (f ch (ChanRun.start o)).ops)).getD [] := by
  rw [onEveryOut_emitted]
  have h := outOps_loop hf s.now ch s.out 0 (by omega)
  simp only [Nat.zero_add, Nat.zero_le, if_true, Nat.sub_zero] at h
  rw [h]
  simp [runAt]

/-- The record of channel `ch` after a loop over every channel. -/
theorem onEveryOut_outAt (s : State) (f : Chan → ChanRun → ChanRun) {ch : Chan} {o : OutCh} (h : s.out[ch.toNat]? = some o) :
    (s.onEveryOut f).outAt ch = (f ch (ChanRun.start o)).o := by
  rw [State.outAt_eq, State.onEveryOut_getElem?, h]
  simp [runAt]

/-! ### The time step -/

/-- Everything a time step can do (R75): fault on a pulse without a period, or advance. -/
theorem timeStep_cases (s : State) :
    (s.out.any (fun o => o.pulseWithoutPeriod) = true ∧ timeStep s = .fault .pulseWithoutPeriod) ∨
      (s.out.any (fun o => o.pulseWithoutPeriod) = false ∧ timeStep s = .next (advance s)) := by
  cases h : s.out.any (fun o => o.pulseWithoutPeriod)
  · exact .inr ⟨rfl, by simp [timeStep, h]⟩
  · exact .inl ⟨rfl, by simp [timeStep, h]⟩

theorem timeStep_next {s t : State} (h : timeStep s = .next t) : t = advance s := by
  obtain ⟨-, e⟩ | ⟨-, e⟩ := timeStep_cases s
  · rw [e] at h
    cases h
  · rw [e] at h
    cases h
    rfl

theorem timeStep_of_periods {s : State} (h : ∀ o ∈ s.out, o.engine = .pulse → o.pperiod ≠ 0) :
    timeStep s = .next (advance s) := by
  obtain ⟨e, -⟩ | ⟨-, e⟩ := timeStep_cases s
  · simp only [List.any_eq_true, OutCh.pulseWithoutPeriod, Bool.and_eq_true, beq_iff_eq] at e
    obtain ⟨o, ho, h1, h2⟩ := e
    exact absurd h2 (h o ho h1)
  · exact e

@[simp] theorem advance_now (s : State) : (advance s).now = s.now + 1 := rfl

theorem advance_outAt {s : State} {ch : Chan} {o : OutCh} (h : s.out[ch.toNat]? = some o) :
    (advance s).outAt ch = (channelTick s.cfg.rounding (s.now + 1) ch (ChanRun.start o)).o :=
  onEveryOut_outAt { s with now := s.now + 1 } _ h

theorem advance_outOps {s : State} {ch : Chan} {o : OutCh} (h : s.out[ch.toNat]? = some o) (hl : s.out.length ≤ 16) :
    outOps ch (emitted s (advance s)) = (channelTick s.cfg.rounding (s.now + 1) ch (ChanRun.start o)).ops := by
  have := onEveryOut_outOps { s with now := s.now + 1 } (local_channelTick s.cfg.rounding (s.now + 1)) ch hl
  simp only [h, Option.map_some, Option.getD_some] at this
  exact this

end Sys2Proof.Machine
end

