-- ==== Sys2Proof/Laws/Exec.lean ====
section
/-! SUPPORT. What a command is: R120's checks around its own effect. Later proofs cite `exec_of_ready` and unfold no
meaning. -/

namespace Sys2Proof.Machine

/-- The effect of a command whose checks have passed (R120): what `checked` or `unlessBusy` is given. -/
def effect (i : Instr) (s : State) : Host.Outcome State Fault Refusal :=
  match i with
  | .nop => .next s
  | .write ch v => .next (s.onOut ch (doWrite s.now ch v))
  | .toggle ch => .next (s.onOut ch (doWrite s.now ch (toggleLevel (s.outAt ch))))
  | .blink ch offp => blinkWith ch (blinkOn s) (blinkOff s offp) s
  | .pulse ch fl =>
    if (pulseProfile s fl).Delegates then blinkWith ch (pulseProfile s fl).on (pulseProfile s fl).off s
    else pulseWith ch (pulseProfile s fl) s
  | .fade ch =>
    if FadeDutiesOk s then
      .next (s.onOut ch (startFade s.cfg s.now (dutyOperand (s.arg 0)) (dutyOperand (s.arg 1)) (s.arg 2) ch))
    else refuse .dutyRange s
  | .stop ch => .next (s.onOut ch (doStop ch))
  | .stopAll => .next (s.onEveryOut doStop)
  | .inOnHigh ch tok => .next (registerSlot ch (fun c => { c with high := Slot.set tok }) s)
  | .inOnLow ch tok => .next (registerSlot ch (fun c => { c with low := Slot.set tok }) s)
  | .inOnChanged ch tok => .next (registerSlot ch (fun c => { c with changed := Slot.set tok }) s)
  | .inClear ch => .next ((s.setIn ch InCh.reset).emit (clearOps ch (s.inAt ch)))
  | .touchOnPress ch tok => .next (registerHandler ch (fun t => { t with pressSlot := Slot.set tok }) s)
  | .touchOnRelease ch tok => .next (registerHandler ch (fun t => { t with releaseSlot := Slot.set tok }) s)
  | .touchOnHeld ch tok => .next (registerHandler ch (fun t => { t with heldSlot := Slot.set tok }) s)

/-- Every command starts with the same checks (R120): BUSY, then its channel, then its effect. -/
theorem exec_eq (i : Instr) (s : State) :
    exec i s = if s.busy then .next (s.raise .busy)
      else if i.wellFormed s.cfg then effect i s else .next (s.raise .badChannel) := by
  cases hb : s.busy
  · cases i <;>
      simp only [exec, execNop, execWrite, execToggle, execBlink, execPulse, execFade, execStop, execStopAll, execInOnHigh,
        execInOnLow, execInOnChanged, execInClear, execTouchOnPress, execTouchOnRelease, execTouchOnHeld, checked,
        unlessBusy, hb, effect, refuse, Instr.wellFormed, Instr.target, decide_eq_true_eq, Bool.false_eq_true, if_false,
        if_true]
  · cases i <;>
      simp only [exec, execNop, execWrite, execToggle, execBlink, execPulse, execFade, execStop, execStopAll, execInOnHigh,
        execInOnLow, execInOnChanged, execInClear, execTouchOnPress, execTouchOnRelease, execTouchOnHeld, checked,
        unlessBusy, hb, refuse, if_true]

/-- A command whose checks pass runs its effect. -/
theorem exec_of_ready {i : Instr} {s : State} (hb : s.busy = false) (hw : i.wellFormed s.cfg = true) :
    exec i s = effect i s := by
  simp [exec_eq, hb, hw]

/-- `t` is `s` but for what a command may write: ERR and ERR_CODE, the channel records and the port. The channel counts stay, and
the port only grows. -/
def CmdFrame (s t : State) : Prop :=
  t = { s with err := t.err, errCode := t.errCode, out := t.out, inp := t.inp, touch := t.touch, port := t.port } ∧
    t.out.length = s.out.length ∧ t.inp.length = s.inp.length ∧ t.touch.length = s.touch.length ∧ s.port <+: t.port

theorem cmdFrame_self (s : State) : CmdFrame s s := ⟨rfl, rfl, rfl, rfl, List.prefix_refl _⟩

theorem cmdFrame_raise (s : State) (c : ErrCode) : CmdFrame s (s.raise c) := ⟨rfl, rfl, rfl, rfl, List.prefix_refl _⟩

theorem cmdFrame_onOut (s : State) (ch : Chan) (f : ChanRun → ChanRun) : CmdFrame s (s.onOut ch f) :=
  ⟨rfl, by simp, rfl, rfl, ⟨_, rfl⟩⟩

theorem cmdFrame_onEveryOut (s : State) (f : Chan → ChanRun → ChanRun) : CmdFrame s (s.onEveryOut f) :=
  ⟨rfl, by simp, rfl, rfl, ⟨_, rfl⟩⟩

theorem cmdFrame_in (s : State) (ch : Chan) (c : InCh) (ops : List PinOp) : CmdFrame s ((s.setIn ch c).emit ops) :=
  ⟨rfl, rfl, by simp, rfl, ⟨_, rfl⟩⟩

theorem cmdFrame_touch (s : State) (ch : Chan) (t : TouchCh) : CmdFrame s (s.setTouch ch t) :=
  ⟨rfl, rfl, rfl, by simp, List.prefix_refl _⟩

/-- Every command answers a next state, within its frame (R59, R118). -/
theorem exec_frame (i : Instr) (s : State) : ∃ t, exec i s = .next t ∧ CmdFrame s t := by
  rw [exec_eq]
  split
  · exact ⟨_, rfl, cmdFrame_raise _ _⟩
  split
  · cases i <;> simp only [effect, blinkWith, pulseWith, refuse]
    case nop => exact ⟨_, rfl, cmdFrame_self _⟩
    case pulse => split <;> split <;> first | exact ⟨_, rfl, cmdFrame_raise _ _⟩ | exact ⟨_, rfl, cmdFrame_onOut _ _ _⟩
    case blink => split <;> first | exact ⟨_, rfl, cmdFrame_raise _ _⟩ | exact ⟨_, rfl, cmdFrame_onOut _ _ _⟩
    case fade => split <;> first | exact ⟨_, rfl, cmdFrame_raise _ _⟩ | exact ⟨_, rfl, cmdFrame_onOut _ _ _⟩
    all_goals first
      | exact ⟨_, rfl, cmdFrame_onOut _ _ _⟩
      | exact ⟨_, rfl, cmdFrame_onEveryOut _ _⟩
      | exact ⟨_, rfl, cmdFrame_in _ _ _ _⟩
      | exact ⟨_, rfl, cmdFrame_touch _ _ _⟩
  · exact ⟨_, rfl, cmdFrame_raise _ _⟩

end Sys2Proof.Machine
end

