-- ==== Sys2Proof/Laws/PerInstr.lean ====
section
/-! SUPPORT. Made per command: its word matches its own row of the opcode map (R67), whatever its operands. -/

namespace Sys2Proof.Laws.MatchesTable

open Sys2Proof

/-- The word of `i` matches the row R67 gives `i`. -/
def Statement (i : Instr) : Prop := (rowOf i).Matches (encode i)

/-- R67's five masks, each field by field: which of OP, CH, FL and TOK a row fixes. -/
theorem masks :
    (0xFFFFFFFF : Word) = pack 0xFF 0xF 0xF 0xFFFF ∧ (0xFFFFE0FF : Word) = pack 0xFF 0 0xE 0xFFFF ∧
    (0xFFFFF0FF : Word) = pack 0xFF 0 0xF 0xFFFF ∧ (0xFFFF00FF : Word) = pack 0xFF 0 0 0xFFFF ∧
    (0x0000F0FF : Word) = pack 0xFF 0 0xF 0 := by decide

/-- A row's pattern is its opcode with every other field zero. -/
theorem pack_op (op : BitVec 8) : pack op 0 0 0 = op.setWidth 32 := by revert op; decide

/-- A word with zeros where the mask has ones outside the opcode keeps only its opcode under the mask. -/
theorem masked (op : BitVec 8) (ch ch' : Chan) (fl fl' : BitVec 4) (tok tok' : Token) (hc : ch &&& ch' = 0)
    (hf : fl &&& fl' = 0) (ht : tok &&& tok' = 0) : pack op ch fl tok &&& pack 0xFF ch' fl' tok' = op.setWidth 32 := by
  rw [pack_and, hc, hf, ht, ← pack_op, show op &&& 0xFF = op from BitVec.and_allOnes]

theorem nop : Statement (.nop) := by
  simp only [Statement, OpcodeRow.Matches, rowOf, encode]
  rw [masks.1]
  exact masked _ _ _ _ _ _ _ BitVec.zero_and BitVec.zero_and BitVec.zero_and

theorem write (ch : Chan) (v : Bool) : Statement (.write ch v) := by
  simp only [Statement, OpcodeRow.Matches, rowOf, encode]
  rw [masks.2.1]
  exact masked _ _ _ _ _ _ _ BitVec.and_zero (by cases v <;> decide) BitVec.zero_and

theorem toggle (ch : Chan) : Statement (.toggle ch) := by
  simp only [Statement, OpcodeRow.Matches, rowOf, encode]
  rw [masks.2.2.1]
  exact masked _ _ _ _ _ _ _ BitVec.and_zero BitVec.zero_and BitVec.zero_and

theorem blink (ch : Chan) (offp : Bool) : Statement (.blink ch offp) := by
  simp only [Statement, OpcodeRow.Matches, rowOf, encode]
  rw [masks.2.1]
  exact masked _ _ _ _ _ _ _ BitVec.and_zero (by cases offp <;> decide) BitVec.zero_and

theorem pulse (ch : Chan) (fl : BitVec 4) : Statement (.pulse ch fl) := by
  simp only [Statement, OpcodeRow.Matches, rowOf, encode]
  rw [masks.2.2.2.1]
  exact masked _ _ _ _ _ _ _ BitVec.and_zero BitVec.and_zero BitVec.zero_and

theorem fade (ch : Chan) : Statement (.fade ch) := by
  simp only [Statement, OpcodeRow.Matches, rowOf, encode]
  rw [masks.2.2.1]
  exact masked _ _ _ _ _ _ _ BitVec.and_zero BitVec.zero_and BitVec.zero_and

theorem stop (ch : Chan) : Statement (.stop ch) := by
  simp only [Statement, OpcodeRow.Matches, rowOf, encode]
  rw [masks.2.2.1]
  exact masked _ _ _ _ _ _ _ BitVec.and_zero BitVec.zero_and BitVec.zero_and

theorem stopAll : Statement (.stopAll) := by
  simp only [Statement, OpcodeRow.Matches, rowOf, encode]
  rw [masks.1]
  exact masked _ _ _ _ _ _ _ BitVec.zero_and BitVec.zero_and BitVec.zero_and

theorem inOnHigh (ch : Chan) (tok : Token) : Statement (.inOnHigh ch tok) := by
  simp only [Statement, OpcodeRow.Matches, rowOf, encode]
  rw [masks.2.2.2.2]
  exact masked _ _ _ _ _ _ _ BitVec.and_zero BitVec.zero_and BitVec.and_zero

theorem inOnLow (ch : Chan) (tok : Token) : Statement (.inOnLow ch tok) := by
  simp only [Statement, OpcodeRow.Matches, rowOf, encode]
  rw [masks.2.2.2.2]
  exact masked _ _ _ _ _ _ _ BitVec.and_zero BitVec.zero_and BitVec.and_zero

theorem inOnChanged (ch : Chan) (tok : Token) : Statement (.inOnChanged ch tok) := by
  simp only [Statement, OpcodeRow.Matches, rowOf, encode]
  rw [masks.2.2.2.2]
  exact masked _ _ _ _ _ _ _ BitVec.and_zero BitVec.zero_and BitVec.and_zero

theorem inClear (ch : Chan) : Statement (.inClear ch) := by
  simp only [Statement, OpcodeRow.Matches, rowOf, encode]
  rw [masks.2.2.1]
  exact masked _ _ _ _ _ _ _ BitVec.and_zero BitVec.zero_and BitVec.zero_and

theorem touchOnPress (ch : Chan) (tok : Token) : Statement (.touchOnPress ch tok) := by
  simp only [Statement, OpcodeRow.Matches, rowOf, encode]
  rw [masks.2.2.2.2]
  exact masked _ _ _ _ _ _ _ BitVec.and_zero BitVec.zero_and BitVec.and_zero

theorem touchOnRelease (ch : Chan) (tok : Token) : Statement (.touchOnRelease ch tok) := by
  simp only [Statement, OpcodeRow.Matches, rowOf, encode]
  rw [masks.2.2.2.2]
  exact masked _ _ _ _ _ _ _ BitVec.and_zero BitVec.zero_and BitVec.and_zero

theorem touchOnHeld (ch : Chan) (tok : Token) : Statement (.touchOnHeld ch tok) := by
  simp only [Statement, OpcodeRow.Matches, rowOf, encode]
  rw [masks.2.2.2.2]
  exact masked _ _ _ _ _ _ _ BitVec.and_zero BitVec.zero_and BitVec.and_zero

end Sys2Proof.Laws.MatchesTable
end

