-- ==== Sys2Proof/Laws/Window.lean ====
section
/-! SUPPORT. What a host access and a step can do: everything a read or a write of the window changes (R39 to R41, R60), the frames
of CMD writes and of the edge and touch dispatches (R109, R115). -/

namespace Sys2Proof.Machine

/-! ### Accesses -/

theorem aligned_iff (off : BitVec 12) : off.toNat % 4 = 0 ↔ off.extractLsb' 0 2 = 0 := by
  rw [← BitVec.toNat_inj]; simp

theorem hostRead_of_aligned {off : BitVec 12} (h : off.toNat % 4 = 0) (s : State) :
    hostRead off 4 s = .next { readAt off s with resp := .data (windowWord s off) } :=
  if_pos ⟨rfl, (aligned_iff off).1 h⟩

theorem hostWrite_of_aligned {off : BitVec 12} (h : off.toNat % 4 = 0) (w : Word) (s : State) :
    hostWrite off 4 w s = writeAt off w { s with resp := .done } :=
  if_pos ⟨rfl, (aligned_iff off).1 h⟩

/-- Everything a host read can do (R39). -/
theorem hostRead_cases (off : BitVec 12) (width : Nat) (s : State) :
    (¬ AccessOk off width ∧ hostRead off width s = .next { s with resp := .error }) ∨
      (AccessOk off width ∧ hostRead off width s = .next { readAt off s with resp := .data (windowWord s off) }) := by
  unfold hostRead
  split
  · exact .inr ⟨‹_›, rfl⟩
  · exact .inl ⟨‹_›, rfl⟩

/-- Everything a host write can do (R39). -/
theorem hostWrite_cases (off : BitVec 12) (width : Nat) (w : Word) (s : State) :
    (¬ AccessOk off width ∧ hostWrite off width w s = .next { s with resp := .error }) ∨
      (AccessOk off width ∧ hostWrite off width w s = writeAt off w { s with resp := .done }) := by
  unfold hostWrite
  split
  · exact .inr ⟨‹_›, rfl⟩
  · exact .inl ⟨‹_›, rfl⟩

/-- R41: a write to a register that R43 marks read-only changes nothing. -/
theorem writeReg_of_readOnly (s : State) (w : Word) (r : Reg) (h : r.access = .ro ∨ r.access = .roPop ∨ r.access = .roLatch) :
    writeReg s w r = s := by
  cases r <;> first | rfl | exact absurd h (by decide) | exact absurd h (by simp [Reg.access])

/-- R60: a read of a register that R43 does not mark "pop" or "latch" has no side effect. -/
theorem readEffect_of_plain (s : State) (r : Reg) (h : r.access ≠ .roPop) (h' : r.access ≠ .roLatch) : readEffect s r = s := by
  cases r <;> first | rfl | exact absurd rfl h | exact absurd rfl h'

/-- A register whose write and whose read change nothing, and which is not CMD. -/
def Reg.Inert (r : Reg) : Prop := (∀ w s, writeReg s w r = s) ∧ (∀ s, readEffect s r = s) ∧ r ≠ .cmd

/-- The common registers that do something, and where they are; the others are inert (R43, R60). -/
theorem commonReg_cases (n : Nat) (r : Reg) (h : commonReg n = some r) :
    (n = 0x00C ∧ r = .status) ∨ (n = 0x014 ∧ r = .irqEn) ∨ (∃ i : Fin 4, n = 0x020 + 4 * i.val ∧ r = .arg i) ∨
      (n = 0x030 ∧ r = .cmd) ∨ (n = 0x01C ∧ r = .evtData) ∨ (n = 0x038 ∧ r = .nowLo) ∨ r.Inert := by
  unfold commonReg at h
  split at h <;> cases h
  case h_9 => exact .inr (.inr (.inl ⟨0, rfl, rfl⟩))
  case h_10 => exact .inr (.inr (.inl ⟨1, rfl, rfl⟩))
  case h_11 => exact .inr (.inr (.inl ⟨2, rfl, rfl⟩))
  case h_12 => exact .inr (.inr (.inl ⟨3, rfl, rfl⟩))
  all_goals simp [Reg.Inert, writeReg, readEffect]

/-- A register of the map is a common one, or a channel register, which is inert. -/
theorem regAt_cases (c : Params) (off : BitVec 12) (r : Reg) (h : regAt c off = some r) :
    commonReg off.toNat = some r ∨ r.Inert := by
  unfold regAt at h
  split at h
  · exact .inl h
  · split at h
    · cases h; right; unfold outReg; split <;> simp [Reg.Inert, writeReg, readEffect]
    · cases h
  · split at h
    · right; unfold inReg at h; split at h <;> cases h <;> simp [Reg.Inert, writeReg, readEffect]
    · cases h
  · simp only at h
    split at h
    · cases h; right; simp [Reg.Inert, writeReg, readEffect]
    · cases h
  · cases h

theorem offset_eq {off : BitVec 12} {n : Nat} (h : off.toNat = n) : off = BitVec.ofNat 12 n := by
  subst h
  simp

theorem writeAt_of_inert {off : BitVec 12} {s : State} {r : Reg} (hr : regAt s.cfg off = some r) (h : r.Inert) (w : Word) :
    writeAt off w s = .next s := by
  obtain ⟨hw, -, hc⟩ := h
  unfold writeAt
  rw [hr]
  cases r <;> first | exact absurd rfl hc | exact congrArg Host.Outcome.next (hw _ _)

/-- Everything an accepted write can do (R41, R60). -/
theorem writeAt_cases (off : BitVec 12) (w : Word) (s : State) :
    (off = 0x030 ∧ writeAt off w s = cmdWrite w s) ∨ (off = 0x00C ∧ writeAt off w s = .next (writeStatus s w)) ∨
      (off = 0x014 ∧ writeAt off w s = .next { s with irqEn := w.extractLsb' 0 3 }) ∨
      (∃ i : Fin 4, off.toNat = 0x020 + 4 * i.val ∧ writeAt off w s = .next (s.setArg i w)) ∨ writeAt off w s = .next s := by
  cases hr : regAt s.cfg off with
  | none => exact .inr (.inr (.inr (.inr (by simp [writeAt, hr]))))
  | some r =>
    rcases regAt_cases _ _ _ hr with hc | hi
    · rcases commonReg_cases _ _ hc with ⟨h, rfl⟩ | ⟨h, rfl⟩ | ⟨i, h, rfl⟩ | ⟨h, rfl⟩ | ⟨h, rfl⟩ | ⟨h, rfl⟩ | hi
      · exact .inr (.inl ⟨offset_eq h, by simp [writeAt, hr, writeReg]⟩)
      · exact .inr (.inr (.inl ⟨offset_eq h, by simp [writeAt, hr, writeReg]⟩))
      · exact .inr (.inr (.inr (.inl ⟨i, h, by simp [writeAt, hr, writeReg]⟩)))
      · exact .inl ⟨offset_eq h, by simp [writeAt, hr]⟩
      · exact .inr (.inr (.inr (.inr (by simp [writeAt, hr, writeReg]))))
      · exact .inr (.inr (.inr (.inr (by simp [writeAt, hr, writeReg]))))
      · exact .inr (.inr (.inr (.inr (writeAt_of_inert hr hi w))))
    · exact .inr (.inr (.inr (.inr (writeAt_of_inert hr hi w))))

/-- Everything an accepted read can change: EVT_DATA pops, NOW_LO latches, and no other offset does anything (R60). -/
theorem readAt_cases (off : BitVec 12) (s : State) :
    (off = 0x01C ∧ readAt off s = { s with evq := s.evq.tail }) ∨
      (off = 0x038 ∧ readAt off s = { s with nowHiSnap := s.now.extractLsb' 32 32 }) ∨
      (off ≠ 0x01C ∧ off ≠ 0x038 ∧ readAt off s = s) := by
  by_cases h1 : off = 0x01C
  · subst h1; exact .inl ⟨rfl, rfl⟩
  by_cases h2 : off = 0x038
  · subst h2; exact .inr (.inl ⟨rfl, rfl⟩)
  refine .inr (.inr ⟨h1, h2, ?_⟩)
  cases hr : regAt s.cfg off with
  | none => simp [readAt, hr]
  | some r =>
    rcases regAt_cases _ _ _ hr with hc | hi
    · rcases commonReg_cases _ _ hc with ⟨h, rfl⟩ | ⟨h, rfl⟩ | ⟨i, h, rfl⟩ | ⟨h, rfl⟩ | ⟨h, rfl⟩ | ⟨h, rfl⟩ | hi
      case inr.inr.inr.inr.inl => exact absurd (offset_eq h) h1
      case inr.inr.inr.inr.inr.inl => exact absurd (offset_eq h) h2
      case inr.inr.inr.inr.inr.inr => simp [readAt, hr, hi.2.1]
      all_goals simp [readAt, hr, readEffect]
    · simp [readAt, hr, hi.2.1]

/-- A write of STATUS, field by field (R47). -/
theorem writeStatus_eq (s : State) (w : Word) :
    writeStatus s w = { s with
      err := s.err && !w.getLsbD 1, errCode := if w.getLsbD 1 then .none else s.errCode,
      evtOvf := s.evtOvf && !w.getLsbD 2 } := by
  unfold writeStatus
  cases w.getLsbD 1 <;> cases w.getLsbD 2 <;> simp [State.clearErr]

/-! ### CMD writes -/

/-- Every word written to CMD answers a next state, within a command's frame (R118). -/
theorem cmdWrite_frame (w : Word) (s : State) : ∃ t, cmdWrite w s = .next t ∧ CmdFrame s t := by
  unfold cmdWrite
  split
  · exact exec_frame _ _
  · exact ⟨_, rfl, cmdFrame_raise _ _⟩

/-! ### The dispatches -/

/-- An edge changes the IN records, EVQ and EVT_OVF only (R109). -/
theorem edge_frame (ch : Chan) (lvl : Bool) (s : State) :
    edge ch lvl s = { s with
      inp := (edge ch lvl s).inp, evq := (edge ch lvl s).evq, evtOvf := (edge ch lvl s).evtOvf } := by
  unfold edge
  simp only
  split
  · unfold pushEdge State.pushIf State.push
    simp only
    repeat (first | rfl | split)
  · rfl

/-- A touch event changes the TOUCH records, EVQ and EVT_OVF only (R115). -/
theorem touchEvent_frame (ch : Chan) (ev : TouchEvent) (s : State) :
    touchEvent ch ev s = { s with
      touch := (touchEvent ch ev s).touch, evq := (touchEvent ch ev s).evq, evtOvf := (touchEvent ch ev s).evtOvf } := by
  unfold touchEvent
  simp only
  split
  · cases ev <;> simp only [pushTouch, State.pushIf, State.push] <;> repeat (first | rfl | split)
  · rfl

end Sys2Proof.Machine
end

