-- ==== Sys2Proof/Laws/Step.lean ====
section
/-! SUPPORT. Everything a step can do, once (R5): which transition it makes and what that leaves. Invariants are proved from
`step_cases`. -/

namespace Sys2Proof.Machine

theorem step_of_schedule {s : State} {t : Transition} {l : List Transition} (h : s.schedule = t :: l) :
    step s = transition t { s with schedule := l } := by
  simp [step, nextTransition, takeScheduled, h]

theorem step_of_empty {s : State} (h : s.schedule = []) : step s = timeStep s := by
  have : takeScheduled s = s := by cases s; cases h; rfl
  simp [step, nextTransition, h, transition, this]

/-! ### Runs -/

theorem core_run_zero (s : State) : Sys2Proof.core.run 0 s = .next s := rfl

/-- A run goes on from the state a step answers. -/
theorem core_run_of_step {s t : State} (h : step s = .next t) (k : Nat) :
    Sys2Proof.core.run (k + 1) s = Sys2Proof.core.run k t := by
  have h' : Sys2Proof.core.step s = .next t := h
  simp only [Host.Core.run, h']

/-- A run of several steps that answers a next state makes its first step. -/
theorem core_run_succ_next {s u : State} {k : Nat} (h : Sys2Proof.core.run (k + 1) s = .next u) :
    ∃ t, step s = .next t ∧ Sys2Proof.core.run k t = .next u := by
  cases hs : step s with
  | next t => exact ⟨t, rfl, by rw [← core_run_of_step hs]; exact h⟩
  | fault r =>
    have h' : Sys2Proof.core.step s = .fault r := hs
    simp only [Host.Core.run, h', reduceCtorEq] at h
  | refused r =>
    have h' : Sys2Proof.core.step s = .refused r := hs
    simp only [Host.Core.run, h', reduceCtorEq] at h

/-- A run of one more step. -/
theorem core_run_snoc {s t u : State} {k : Nat} (h : Sys2Proof.core.run k s = .next t) (hs : step t = .next u) :
    Sys2Proof.core.run (k + 1) s = .next u := by
  induction k generalizing s with
  | zero =>
    cases h
    rw [core_run_of_step hs, core_run_zero]
  | succ k ih =>
    obtain ⟨m, hm, hr⟩ := core_run_succ_next h
    rw [core_run_of_step hm]
    exact ih hr

/-! ### The cases of a step -/

/-- Everything a step can do when it answers a next state. -/
theorem step_cases {s t : State} (h : step s = .next t) :
    (∃ off width, nextTransition s = .read off width ∧
      ((¬ AccessOk off width ∧ t = { takeScheduled s with resp := .error }) ∨
        (AccessOk off width ∧
          t = { readAt off (takeScheduled s) with resp := .data (windowWord (takeScheduled s) off) }))) ∨
    (∃ off width w, nextTransition s = .write off width w ∧
      ((¬ AccessOk off width ∧ t = { takeScheduled s with resp := .error }) ∨
        (AccessOk off width ∧ writeAt off w { takeScheduled s with resp := .done } = .next t))) ∨
    (nextTransition s = .timeStep ∧ t = advance (takeScheduled s)) ∨
    (∃ ch lvl, nextTransition s = .edge ch lvl ∧ t = edge ch lvl (takeScheduled s)) ∨
    (∃ ch ev, nextTransition s = .touch ch ev ∧ t = touchEvent ch ev (takeScheduled s)) ∨
    (nextTransition s = .reset ∧ t = resetPsb (takeScheduled s)) := by
  unfold step at h
  cases hn : nextTransition s with
  | read off width =>
    rw [hn, transition] at h
    rcases hostRead_cases off width (takeScheduled s) with ⟨a, b⟩ | ⟨a, b⟩ <;> rw [b] at h <;> cases h
    · exact .inl ⟨_, _, rfl, .inl ⟨a, rfl⟩⟩
    · exact .inl ⟨_, _, rfl, .inr ⟨a, rfl⟩⟩
  | write off width w =>
    rw [hn, transition] at h
    rcases hostWrite_cases off width w (takeScheduled s) with ⟨a, b⟩ | ⟨a, b⟩ <;> rw [b] at h
    · cases h
      exact .inr (.inl ⟨_, _, _, rfl, .inl ⟨a, rfl⟩⟩)
    · exact .inr (.inl ⟨_, _, _, rfl, .inr ⟨a, h⟩⟩)
  | timeStep =>
    rw [hn, transition] at h
    exact .inr (.inr (.inl ⟨rfl, timeStep_next h⟩))
  | edge ch lvl =>
    rw [hn] at h
    cases h
    exact .inr (.inr (.inr (.inl ⟨_, _, rfl, rfl⟩)))
  | touch ch ev =>
    rw [hn] at h
    cases h
    exact .inr (.inr (.inr (.inr (.inl ⟨_, _, rfl, rfl⟩))))
  | reset =>
    rw [hn] at h
    cases h
    exact .inr (.inr (.inr (.inr (.inr ⟨rfl, rfl⟩))))

end Sys2Proof.Machine
end

