-- ==== Sys2Proof/Tests/Slice0.lean ====
section
/-! SUPPORT. The model's own tests. Expected values are those of spec/95_test_vectors.md (its section is cited) or of the rule
cited; none was read off the model. The second part gives, for every obligation with hypotheses, a concrete state and operands
that meet them all. -/

namespace Sys2Proof.Tests

open Sys2Proof Sys2Proof.Machine

/-! ### Helpers -/

/-- A question about the next state, if there is one. -/
def ask {α : Type} (f : State → α) (o : Host.Outcome State Fault Refusal) : Option α :=
  match o with
  | .next t => some (f t)
  | .fault _ => none
  | .refused _ => none

/-- The port as 95_test_vectors.md writes it. -/
def trace (s : State) : List (Nat × PinOp) := s.port.map (fun e => (e.time.toNat, e.op))

/-- A CMD write of `w` by the host. -/
def cmd (w : Word) (s : State) : Host.Outcome State Fault Refusal := hostWrite 0x030 4 w s

/-- Channel 0 of `s` with record `o`. -/
def with0 (o : OutCh) (s : State := State.reset) : State := s.setOut 0 o

/-- BLINKING with PERIOD 2000 and DUTY 50 (95 section 2.4). -/
def blinking2000 : OutCh := { OutCh.reset with effect := .blinking, period := 2000, duty := 50 }

/-- Running the default profile since NOW = 0, with the given duty and phase (95 section 1.1). -/
def pulsing (duty : Duty) (phase : Phase) : OutCh :=
  { OutCh.reset with
    effect := .pulsing, engine := .pulse, period := 10, duty := duty, phase := phase, tOn := 500, on := 500, tOff := 500,
    off := 500, pperiod := 2000 }

/-- Running the fade of `(fStart, fEnd, fDur)` since NOW = 0, at a duty (95 section 2.5). -/
def fading (fStart fEnd : Duty) (fDur : Word) (duty : Duty) : OutCh :=
  { OutCh.reset with
    effect := .fading, engine := .fade, period := 10, duty := duty, fStart := fStart, fEnd := fEnd, fDur := fDur }

/-- Settling until `dl` after a WRITE of 1 over a blink (R91). -/
def settling (dl : Time) : OutCh :=
  { OutCh.reset with effect := .writing, period := 2000, duty := 100, settle := true, settleDl := dl }

/-- A pulse profile in the order (T_ON, ON, T_OFF, OFF). -/
def profile (tOn on tOff off : Word) : OutCh := { OutCh.reset with tOn := tOn, on := on, tOff := tOff, off := off }

/-! ### Well-formedness (R120) -/

theorem test_wellformed_last_channels :
    (Instr.write 3 true).wellFormed Params.vectors = true ∧ (Instr.inClear 3).wellFormed Params.vectors = true ∧
    (Instr.touchOnHeld 7 9).wellFormed Params.vectors = true ∧ Instr.stopAll.wellFormed Params.vectors = true ∧
    Instr.nop.wellFormed Params.vectors = true := by decide

theorem test_illformed_out : (Instr.write 4 true).wellFormed Params.vectors = false := by decide
theorem test_illformed_in : (Instr.inClear 4).wellFormed Params.vectors = false := by decide
theorem test_illformed_touch : (Instr.touchOnPress 8 0).wellFormed Params.vectors = false := by decide

/-! ### Decoding: words written out from R64 and R67 (OP 7:0, CH 11:8, FL 15:12, TOK 31:16) -/

theorem test_decode_nop : decode 0b0000000000000000_0000_0000_00000000 = .ok .nop := by decide
theorem test_decode_write : decode 0b0000000000000000_0001_0001_00000001 = .ok (.write 1 true) := by decide
theorem test_decode_toggle : decode 0b0000000000000000_0000_0010_00000010 = .ok (.toggle 2) := by decide
theorem test_decode_blink : decode 0b0000000000000000_0001_0000_00000011 = .ok (.blink 0 true) := by decide
theorem test_decode_pulse : decode 0b0000000000000000_1011_0001_00000100 = .ok (.pulse 1 0b1011) := by decide
theorem test_decode_fade : decode 0b0000000000000000_0000_1001_00000101 = .ok (.fade 9) := by decide
theorem test_decode_stop : decode 0b0000000000000000_0000_0011_00000110 = .ok (.stop 3) := by decide
theorem test_decode_stop_all : decode 0b0000000000000000_0000_0000_00000111 = .ok .stopAll := by decide
theorem test_decode_in_on_high : decode 0b0000000010101011_0000_0000_00010000 = .ok (.inOnHigh 0 0xAB) := by decide
theorem test_decode_in_on_low : decode 0b1000000000000001_0000_0101_00010001 = .ok (.inOnLow 5 0x8001) := by decide
theorem test_decode_in_on_changed : decode 0b0000000000000011_0000_0001_00010010 = .ok (.inOnChanged 1 3) := by decide
theorem test_decode_in_clear : decode 0b0000000000000000_0000_1111_00010011 = .ok (.inClear 15) := by decide
theorem test_decode_touch_on_press : decode 0b0001001000110100_0000_0101_00100000 = .ok (.touchOnPress 5 0x1234) := by decide
theorem test_decode_touch_on_release : decode 0b0000000000000010_0000_0000_00100001 = .ok (.touchOnRelease 0 2) := by decide
theorem test_decode_touch_on_held : decode 0b1111111111111111_0000_0111_00100010 = .ok (.touchOnHeld 7 0xFFFF) := by decide

/-- R69: the ends of the three ranges of illegal opcodes. -/
theorem test_decode_illegal :
    [(0x08 : Word), 0x0F, 0x14, 0x1F, 0x23, 0x99, 0xFF].all (fun w => decode w == .error .illegalOpcode) = true := by decide

/-- 95 section 2.8 and the refused rows of 2.3, 2.4, 2.6 and 2.7. -/
theorem test_decode_reserved :
    [(0x00010000 : Word), 0x0000F010, 0x00010013, 0x00003001, 0x00002003, 0x00010004, 0x00000407, 0x00000807,
      0x00000100].all (fun w => decode w == .error .reservedField) = true := by decide

/-- The opcode table's numbering is the word's own. -/
theorem test_decode_table_word : decodeTableWord 32 0x0000F104 = some (.pulse 1 15) ∧ decodeTableWord 32 0x99 = none := by
  decide

/-- The scheduled word is the one that runs (95 section 2.6). -/
theorem test_fetch_word :
    ask (fun t => ((t.outAt 0).level, t.schedule)) (step (State.reset.withFetchWord 32 0x00001001)) = some (true, []) := by
  decide

/-! ### Arithmetic (R10, R85, R124) -/

/-- 95 section 2.1. -/
theorem test_rdiv :
    [(2000, 800), (6000, 800), (500, 8), (100, 200), (100000, 3000), (0, 5)].map
      (fun p : Nat × Nat => (rdiv .halfEven p.1 p.2, rdiv .halfUp p.1 p.2)) =
    [(2, 3), (8, 8), (62, 63), (0, 1), (33, 33), (0, 0)] := by decide

/-- 95 section 2.2. -/
theorem test_pulse_duty :
    [pulseAt .halfEven (profile 800 0 800 0) 1580, pulseAt .halfUp (profile 800 0 800 0) 1580,
      pulseAt .halfEven (profile 160 0 160 0) 160, pulseAt .halfEven (profile 160 0 160 0) 180,
      pulseAt .halfEven (profile 0 100 200 100) 0, pulseAt .halfEven (profile 0 100 200 100) 20,
      pulseAt .halfEven (profile 0 100 200 100) 300, pulseAt .halfEven (profile 0 100 200 100) 320,
      pulseAt .halfEven (profile 100 100 0 100) 220] =
    [(.falling, 2), (.falling, 3), (.rising, 100), (.falling, 88), (.rising, 100), (.on, 100), (.falling, 0), (.off, 0),
      (.off, 0)] := by decide

/-- 95 sections 2.9 and 2.10. -/
theorem test_event_record :
    evrec 0x00AB .inp 0 0 true = 0x00AB0001 ∧ evrec 3 .inp 0 2 true = 0x00030021 ∧
    evrec 0x1234 .touch 5 0 false = 0x12341500 ∧ evrec 7 .touch 5 1 false = 0x00071510 := by decide

/-- R130: SET_PWM(1, 1000, 30), of P5, as a record: KIND 1, CH 1, A 1000, B 30. -/
theorem test_pin_record : (PinOp.setPwm 1 1000 30).record = 0x11_000003E8_0000001E := by decide

/-! ### One command each -/

/-- 95 section 2.7. -/
theorem test_nop : ask (fun t => decide (t = { State.reset with resp := .done })) (cmd 0x00000000 State.reset) = some true := by
  decide

/-- 95 section 2.6: from reset. -/
theorem test_write_at_once :
    ask (fun t => (trace t, (t.outAt 0).effect, (t.outAt 0).level, t.busy)) (cmd 0x00001001 State.reset) =
      some ([(0, .changeDuty 0 100), (0, .stopPwm 0), (0, .writeDigital 0 true)], .writing, true, false) := by decide

/-- 95 section 2.6: PULSING at NOW = 250, WRITE 0, 1. -/
theorem test_write_settles :
    ask (fun t => (trace t, (t.outAt 0).settleDl, (t.outAt 0).level, t.busy))
        (cmd 0x00001001 (with0 (pulsing 48 .rising) { State.reset with now := 250 })) =
      some ([(250, .changeDuty 0 0), (250, .changeDuty 0 100), (250, .stopPwm 0)], 270, false, true) := by decide

/-- 95 section 2.6: BLINKING, TOGGLE 0. -/
theorem test_toggle_blinking :
    ask (fun t => (trace t, (t.outAt 0).level, t.busy)) (cmd 0x00000002 (with0 blinking2000)) =
      some ([(0, .changeDuty 0 100), (0, .stopPwm 0), (0, .writeDigital 0 false)], false, false) := by decide

/-- 95 section 2.6: reset, TOGGLE 0. -/
theorem test_toggle_reset : ask (fun t => (t.outAt 0).level) (cmd 0x00000002 State.reset) = some true := by decide

/-- 95 section 2.4: reset, BLINK 0, 5, 3. -/
theorem test_blink_starts :
    ask (fun t => (trace t, windowWord t 0x104)) (cmd 0x00001003 { State.reset with arg0 := 5, arg1 := 3 }) =
      some ([(0, .setPwm 0 8 62)], 8) := by decide

/-- 95 section 2.4: BLINKING 2000/50, BLINK 0, 1000, 2000; OUT_STAT from P2. -/
theorem test_blink_in_place :
    ask (fun t => (trace t, windowWord t 0x100)) (cmd 0x00001003 { with0 blinking2000 with arg0 := 1000, arg1 := 2000 }) =
      some ([(0, .changeFreq 0 3000), (0, .changeDuty 0 33)], 0x0021000A) := by decide

/-- 95 section 2.3: the C2 vector, PULSE 0, 200, 300. -/
theorem test_pulse_defaults :
    ask (fun t => (trace t, [(t.outAt 0).tOn, (t.outAt 0).tOff, (t.outAt 0).on, (t.outAt 0).off, (t.outAt 0).pperiod]))
        (cmd 0x00003004 { State.reset with arg0 := 200, arg1 := 300 }) =
      some ([(0, .setPwm 0 10 0), (0, .changeDuty 0 0)], [200, 300, 200, 200, 900]) := by decide

/-- 95 P5: PULSE 1, 0, 0, 300, 700 blinks. -/
theorem test_pulse_delegates :
    ask (fun t => (trace t, windowWord t 0x110)) (cmd 0x0000F104 { State.reset with arg2 := 300, arg3 := 700 }) =
      some ([(0, .setPwm 1 1000 30)], 0x001E000A) := by decide

/-- 95 section 2.5: a FADE over a running pulse at NOW = 40. -/
theorem test_fade_over_pulse :
    ask (fun t => (trace t, (t.outAt 0).start, (t.outAt 0).engine))
        (cmd 0x00000005 { with0 (pulsing 8 .rising) with now := 40, arg0 := 30, arg1 := 60, arg2 := 200 }) =
      some ([(40, .changeDuty 0 0), (40, .changeDuty 0 30)], 40, .fade) := by decide

/-- 95 section 2.5: (10, 20, 0) ends inside the command. -/
theorem test_fade_at_once :
    ask (fun t => (trace t, (t.outAt 0).engine, (t.outAt 0).effect))
        (cmd 0x00000005 { State.reset with arg0 := 10, arg1 := 20 }) =
      some ([(0, .setPwm 0 10 0), (0, .changeDuty 0 20)], .none, .fading) := by decide

/-- 95 section 2.7: PULSING, STOP 0. -/
theorem test_stop_pulse :
    ask (fun t => (trace t, (t.outAt 0).effect)) (cmd 0x00000006 (with0 (pulsing 8 .rising))) =
      some ([(0, .changeDuty 0 0), (0, .stopPwm 0)], .idle) := by decide

/-- 95 section 2.5: STOP over a fade keeps DUTY. -/
theorem test_stop_fade :
    ask (fun t => (trace t, windowWord t 0x100)) (cmd 0x00000006 (with0 (fading 30 60 200 30))) =
      some ([(0, .stopPwm 0)], 0x001E0000) := by decide

/-- 95 section 2.7: channel 1 PULSING, STOP_ALL. -/
theorem test_stop_all :
    ask trace (cmd 0x00000007 (State.reset.setOut 1 (pulsing 8 .rising))) =
      some [(0, .stopPwm 0), (0, .changeDuty 1 0), (0, .stopPwm 1), (0, .stopPwm 2), (0, .stopPwm 3)] := by decide

/-- An input channel after IN_ON_HIGH 0, 0xAB, 50 and IN_ON_CHANGED 0, 3, 50 (95 section 2.9). -/
def in50 : InCh :=
  { InCh.reset with
    subscribed := true, minInterval := 50, high := { valid := true, tok := 0xAB }, changed := { valid := true, tok := 3 } }

/-- Reset with `in50` on channel 0. -/
def withIn (c : InCh := in50) : State := State.reset.setIn 0 c

/-- 95 P3: IN_ON_HIGH on an Idle channel subscribes it. -/
theorem test_in_on_high :
    ask (fun t => (trace t, windowWord t 0x200, windowWord t 0x204)) (cmd 0x00AB0010 { State.reset with arg0 := 50 }) =
      some ([(0, .subscribeEdge 0 50)], 0x03, 50) := by decide

/-- 95 section 2.9: IN_ON_LOW after IN_ON_HIGH with another ARG0 emits nothing and keeps MIN_INTERVAL. -/
theorem test_in_on_low :
    ask (fun t => (trace t, windowWord t 0x204, (t.inAt 0).low.tok)) (cmd 0x00070011 { withIn with arg0 := 99 }) =
      some ([], 50, 7) := by decide

/-- 95 section 2.9: IN_ON_CHANGED 1, 3, 0. -/
theorem test_in_on_changed :
    ask (fun t => (trace t, windowWord t 0x210)) (cmd 0x00030112 State.reset) =
      some ([(0, .subscribeEdge 1 0)], 0x09) := by decide

/-- 95 section 2.9: IN_CLEAR 0. -/
theorem test_in_clear :
    ask (fun t => (trace t, decide (t.inAt 0 = InCh.reset))) (cmd 0x00000013 withIn) =
      some ([(0, .unsubscribeEdge 0)], true) := by decide

/-- 95 section 2.9: the edges at 0, 30, 50, 99 and 100. -/
theorem test_edge_first : (edge 0 true withIn).evq = [0x00AB0001, 0x00030021] := by decide
theorem test_edge_gap :
    (edge 0 false { withIn { in50 with lastValid := true, lastLevel := true } with now := 30 }).evq = [] ∧
    (edge 0 false { withIn { in50 with lastValid := true, lastLevel := true } with now := 50 }).evq = [0x00030020] ∧
    (edge 0 true { withIn { in50 with lastValid := true, lastTs := 50 } with now := 99 }).evq = [] ∧
    (edge 0 true { withIn { in50 with lastValid := true, lastTs := 50 } with now := 100 }).evq =
      [0x00AB0001, 0x00030021] := by decide

/-- A pad with PRESS token 0x1234 and RELEASE token 7 (95 section 2.10). -/
def pad : TouchCh :=
  { TouchCh.reset with pressSlot := { valid := true, tok := 0x1234 }, releaseSlot := { valid := true, tok := 7 } }

/-- Reset with `t` on touch channel 5. -/
def withPad (t : TouchCh := pad) : State := State.reset.setTouch 5 t

/-- 95 P4: the two registrations make TOUCH_STAT[5] 0x04 and 0x0C. -/
theorem test_touch_on_press : ask (fun t => windowWord t 0x314) (cmd 0x12340520 State.reset) = some 0x04 := by decide
theorem test_touch_on_release :
    ask (fun t => (windowWord t 0x314, (t.touchAt 5).releaseSlot.tok))
      (cmd 0x00070521 (withPad { pad with releaseSlot := Slot.empty })) = some (0x0C, 7) := by decide
/-- R114, R58: HELD_V is bit 4. -/
theorem test_touch_on_held :
    ask (fun t => (windowWord t 0x314, (t.touchAt 5).heldSlot.tok)) (cmd 0x00090522 withPad) = some (0x1C, 9) := by decide

/-- 95 section 2.10: PRESS, HELD without PRESS, and NONE. -/
theorem test_touch_events :
    windowWord (touchEvent 5 .press withPad) 0x314 = 0x0D ∧ (touchEvent 5 .press withPad).evq = [0x12341500] ∧
    windowWord (touchEvent 5 .held withPad) 0x314 = 0x0E ∧ (touchEvent 5 .held withPad).evq = [] ∧
    windowWord (touchEvent 5 .none (withPad { pad with pressed := true, held := true })) 0x314 = 0x0C := by decide
theorem test_touch_release :
    (touchEvent 5 .release (withPad { pad with pressed := true, held := true })).evq = [0x00071510] ∧
    windowWord (touchEvent 5 .release (withPad { pad with pressed := true, held := true })) 0x314 = 0x0C := by decide

/-! ### Refusals (R119 to R121) -/

/-- 95 section 2.8, with the operand refusals of 2.3, 2.4 and 2.5. -/
theorem test_refusals :
    [(0x000000FF : Word), 0x00010000, 0x00000403, 0x00000413, 0x00000820, 0x00000003, 0x0000F104].map
      (fun w => ask (fun t => (windowWord t 0x010, t.err)) (cmd w State.reset)) =
    [some (2, true), some (3, true), some (4, true), some (4, true), some (4, true), some (5, true), some (5, true)] ∧
    ask (fun t => windowWord t 0x010) (cmd 0x00000005 { State.reset with arg0 := 101, arg2 := 100 }) = some 6 := by decide

/-- 95 section 2.8: BUSY comes first, also for 0xFF; and the first error is kept. -/
theorem test_busy_first : ask (fun t => windowWord t 0x010) (cmd 0x000000FF (with0 (settling 20))) = some 1 := by decide
theorem test_first_error :
    ask (fun t => windowWord t 0x010) (cmd 0x00000099 (State.reset.raise .periodRange)) = some 5 := by decide

/-! ### Time (R75) -/

/-- 95 P1: the step to NOW = 240 emits duty 48; the one to 250 emits nothing. -/
theorem test_pulse_tick :
    ask trace (timeStep { with0 (pulsing 44 .rising) with now := 239 }) = some [(240, .changeDuty 0 48)] ∧
    ask trace (timeStep { with0 (pulsing 48 .rising) with now := 249 }) = some [] := by decide

/-- 95 section 2.5: (0, 100, 250) at NOW = 200 and 300. -/
theorem test_fade_tick :
    ask (fun t => (trace t, (t.outAt 0).engine)) (timeStep { with0 (fading 0 100 250 40) with now := 199 }) =
      some ([(200, .changeDuty 0 80)], .fade) ∧
    ask (fun t => (trace t, (t.outAt 0).engine)) (timeStep { with0 (fading 0 100 250 80) with now := 299 }) =
      some ([(300, .changeDuty 0 100)], .none) := by decide

/-- 95 section 1.2 T7: the settle delay ends at NOW = 20. -/
theorem test_settle_expiry :
    ask (fun t => (trace t, t.busy)) (timeStep { with0 (settling 20) with now := 19 }) =
      some ([(20, .writeDigital 0 true)], false) ∧
    ask (fun t => (trace t, t.busy)) (timeStep { with0 (settling 20) with now := 18 }) = some ([], true) := by decide

/-- R75: NOW wraps. -/
theorem test_now_wraps :
    ask (fun t => t.now) (timeStep { State.reset with now := 0xFFFFFFFFFFFFFFFF }) = some 0 := by decide

/-! ### The register window (R43, 95 section 2.11) -/

/-- R43's column of reset read values: ID, VERSION, PARAM and CARRIER, and 0 everywhere else. -/
theorem test_reset_reads :
    [(0x000 : BitVec 12), 0x004, 0x008, 0x034].map (windowWord State.reset) = [0x50534831, 0x00070000, 0x10080404, 10] ∧
    [(0x00C : BitVec 12), 0x010, 0x014, 0x018, 0x01C, 0x020, 0x024, 0x028, 0x02C, 0x030, 0x038, 0x03C, 0x040, 0x100, 0x134,
      0x138, 0x13C, 0x200, 0x234, 0x238, 0x300, 0x31C].all (fun off => windowWord State.reset off == 0) = true := by decide

/-- A byte read and an unaligned word read get a bus error and change nothing else. -/
theorem test_bus_error :
    ask (fun t => decide (t = { State.reset with resp := .error })) (hostRead 0x000 1 State.reset) = some true ∧
    ask (fun t => decide (t = { State.reset with resp := .error })) (hostRead 0x002 4 State.reset) = some true := by decide

/-- At NOW = 0x1_0000_0005 a read of NOW_LO gives 5 and latches 1. -/
theorem test_now_latch :
    ask (fun t => (t.resp, t.nowHiSnap)) (hostRead 0x038 4 { State.reset with now := 0x100000005 }) = some (.data 5, 1) := by
  decide

/-- 95 section 2.9, Overflow: a full queue drops the third record; STATUS reads 0x1C. -/
theorem test_overflow :
    ∀ s : State, s = edge 0 true
        { withIn { in50 with minInterval := 0, high := Slot.empty, changed := { valid := true, tok := 1 } } with
          cfg := { Params.vectors with evqDepth := 2 }, evq := [0x00010021, 0x00010020], irqEn := 0b100 } →
      s.evq = [0x00010021, 0x00010020] ∧ windowWord s 0x00C = 0x1C := by
  rintro _ rfl
  decide

/-- R135: the reset transition clears what a run has set. -/
theorem test_reset_transition :
    ask (fun t => decide (t = State.reset))
        (step { with0 (pulsing 8 .rising) with now := 40, evq := [0x00010021], arg1 := 7, schedule := [.reset] }) =
      some true := by decide

/-! ### The host's side (R72, R138, R146) -/

theorem test_assemble :
    assemble (.pulse 1 (some 0) (some 0) (some 300) (some 700)) =
      [.write 0x020 4 0, .write 0x024 4 0, .write 0x028 4 300, .write 0x02C 4 700, .write 0x030 4 0x0000F104] ∧
    assemble (.blink 0 1000 none) = [.write 0x020 4 1000, .write 0x030 4 0x00000003] := by decide

/-! ### Witnesses: what the hypotheses of each obligation ask can be met

A witness names its obligation. Where an obligation has several clauses there is one for each, at the ends of its range. -/

/-- One output channel with record `o`, in the build with N_OUT = 1. -/
def one (o : OutCh) (now : Time := 0) (l : List Transition := []) : State :=
  { State.resetOf { Params.vectors with nOut := 1 } with out := [o], now := now, schedule := l }

theorem one_inv (o : OutCh) (now : Time) (l : List Transition) (ho : o.Inv)
    (hs : o.settle = true → 1 ≤ (o.settleDl - now).toNat ∧ (o.settleDl - now).toNat ≤ 20) : (one o now l).Inv where
  legal := (by decide : { Params.vectors with nOut := 1 }.Legal)
  out_length := rfl
  inp_length := rfl
  touch_length := rfl
  evq_length := Nat.zero_le _
  err_iff := (by decide : false = true ↔ ErrCode.none ≠ .none)
  out_inv := by simpa [one] using ho
  inp_inv := by
    intro c hc
    obtain rfl : c = InCh.reset := List.eq_of_mem_replicate hc
    exact ⟨by decide, by decide, by decide, fun _ => rfl, by decide, by decide⟩
  touch_inv := by
    intro t ht
    obtain rfl : t = TouchCh.reset := List.eq_of_mem_replicate ht
    exact ⟨by decide, by decide, by decide⟩
  evq_ok := by simp [one, State.resetOf]
  one_settle := by
    intro i j o' p' hi hj _ _
    obtain ⟨hi, -⟩ := List.getElem?_eq_some_iff.1 hi
    obtain ⟨hj, -⟩ := List.getElem?_eq_some_iff.1 hj
    simp only [one, List.length_singleton] at hi hj
    omega
  settle_soon := by simpa [one] using hs

theorem idle_inv : OutCh.reset.Inv := by constructor <;> decide
theorem blinking_inv : blinking2000.Inv := by constructor <;> decide
theorem pulsing_inv : (pulsing 8 .rising).Inv := by constructor <;> decide
theorem fading_inv : (fading 0 100 250 40).Inv := by constructor <;> decide
theorem settling_inv : (settling 20).Inv := by constructor <;> decide

theorem witness_EncodeOfDecode : decode 0x0000F104 = .ok (.pulse 1 15) := by decide

theorem witness_CommandsAreTheOpcodeMap :
    decode 0x12340520 = .ok (.touchOnPress 5 0x1234) ∧ rowOf (.touchOnPress 5 0x1234) ∈ opcodeRows ∧
    (rowOf (.touchOnPress 5 0x1234)).Matches 0x12340520 := by decide

theorem witness_IllegalOpcodeIsRefused :
    State.reset.busy = false ∧ decode 0x08 = .error .illegalOpcode ∧ decode 0x0F = .error .illegalOpcode ∧
    decode 0x14 = .error .illegalOpcode ∧ decode 0x1F = .error .illegalOpcode ∧ decode 0x23 = .error .illegalOpcode ∧
    decode 0xFF = .error .illegalOpcode := by decide

/-- A must-be-zero bit in a row of each mask: NOP, WRITE, STOP, PULSE and IN_ON_HIGH (95 sections 2.3, 2.6 and 2.8). -/
theorem witness_ReservedFieldIsRefused :
    State.reset.busy = false ∧
    [((0x00010000 : Word), Instr.nop), (0x00003001, .write 0 false), (0x00001006, .stop 0), (0x00010004, .pulse 0 0),
      (0x0000F010, .inOnHigh 0 0)].all (fun p => decide (rowOf p.2 ∈ opcodeRows ∧
        opOf p.1 = opOf (rowOf p.2).pattern ∧ ¬ (rowOf p.2).Matches p.1)) = true := by decide

/-- A schedule of each kind of transition, an empty one, and a CMD write of a command and of a word that is none. -/
theorem witness_CmdWriteStepRunsTheCommand :
    (one OutCh.reset 0 [.read 0x000 4]).schedule = [.read 0x000 4] ∧
    (one OutCh.reset 0 [.write 0x014 4 1]).schedule = [.write 0x014 4 1] ∧
    (one OutCh.reset 0 [.timeStep]).schedule = [.timeStep] ∧
    (one OutCh.reset 0 [.edge 0 true]).schedule = [.edge 0 true] ∧
    (one OutCh.reset 0 [.touch 5 .press]).schedule = [.touch 5 .press] ∧
    (one OutCh.reset 0 [.reset]).schedule = [.reset] ∧ State.reset.schedule = [] ∧
    ({ State.reset with schedule := [.write 0x030 4 0x00001101] }).schedule = .write 0x030 4 0x00001101 :: [] ∧
    decode 0x00001101 = .ok (.write 1 true) ∧
    ({ State.reset with schedule := [.write 0x030 4 0x99] }).schedule = .write 0x030 4 0x99 :: [] ∧
    decode 0x99 = .error .illegalOpcode := by decide

theorem witness_BusyRefusesEveryCommand : (with0 (settling 20)).busy = true := by decide

theorem witness_BadChannelIsRefused :
    State.reset.busy = false ∧ (Instr.fade 4).wellFormed State.reset.cfg = false ∧
    (Instr.inClear 4).wellFormed State.reset.cfg = false ∧ (Instr.touchOnHeld 8 1).wellFormed State.reset.cfg = false := by
  decide

theorem witness_FirstErrorWins : State.reset.err = false := by decide

theorem witness_NopChangesNothing : State.reset.busy = false := by decide

theorem witness_WriteStopsPwmThenWrites :
    (OutReady (with0 blinking2000) 0 ∧ ((with0 blinking2000).outAt 0).blinking = true) ∧
    (OutReady State.reset 3 ∧ ¬ (State.reset.outAt 3).blinking = true) := by decide

theorem witness_ToggleWritesTheOtherLevel : OutReady State.reset 3 ∧ OutReady (with0 blinking2000) 0 := by decide

/-- At both ends of the accepted blink period, over an idle and over a blinking output; and for `rdiv` a divisor with a
remainder below, above and at the half. -/
theorem witness_BlinkSetsPeriodAndDuty :
    2 * (100 % 8) = 8 ∧ 2 * (9 % 8) < 8 ∧ 8 < 2 * (7 % 8) ∧
    OutReady State.reset 0 ∧ OutReady (with0 blinking2000) 0 ∧ BlinkPeriodOk 1 0 ∧ BlinkPeriodOk 0xFFFFFFFF 0 ∧
    BlinkPeriodOk 5 3 := by decide

theorem witness_BlinkInPlaceNeverStartsPwm :
    ∃ t : State, ({ with0 blinking2000 with arg0 := 1000 }.outAt 0).blinking = true ∧
      exec (.blink 0 false) { with0 blinking2000 with arg0 := 1000 } = .next t := ⟨_, rfl, rfl⟩

/-- All four operands absent, and the largest pulse period with all of them present. -/
theorem witness_PulseStartsTheEngine :
    (OutReady State.reset 0 ∧ ¬ (pulseProfile State.reset 0).Delegates ∧ PulsePeriodOk (pulseProfile State.reset 0)) ∧
    ∀ s : State, s = { State.reset with arg0 := 0xFFFFFFFF } → OutReady s 3 ∧ ¬ (pulseProfile s 15).Delegates ∧
      PulsePeriodOk (pulseProfile s 15) := by
  refine ⟨by decide, ?_⟩
  rintro _ rfl
  decide

theorem witness_PulseWithoutTransitionsBlinks :
    ∀ s : State, s = { State.reset with arg2 := 300, arg3 := 700 } →
      OutReady s 1 ∧ (pulseProfile s 15).Delegates ∧ BlinkPeriodOk (pulseProfile s 15).on (pulseProfile s 15).off := by
  rintro _ rfl
  decide

/-- Blink periods 0 and 2^32, a delegating pulse with period 0, a pulse period 2^32, and a duty of 101. -/
theorem witness_OperandRangesAreChecked :
    State.reset.busy = false ∧ State.reset.cfg.HasChannel .out 3 ∧ ¬ BlinkPeriodOk 0 0 ∧ ¬ BlinkPeriodOk 0xFFFFFFFF 1 ∧
    ((pulseProfile State.reset 15).Delegates ∧
      ¬ BlinkPeriodOk (pulseProfile State.reset 15).on (pulseProfile State.reset 15).off) ∧
    (∀ s : State, s = { State.reset with arg0 := 0xFFFFFFFF, arg1 := 1 } → s.busy = false ∧
      ¬ (pulseProfile s 15).Delegates ∧ 2 ^ 32 - 1 < (pulseProfile s 15).sum) ∧
    100 < (101 : Word).toNat := by
  refine ⟨by decide, by decide, by decide, by decide, by decide, ?_, by decide⟩
  rintro _ rfl
  decide

theorem witness_DefaultFormsAreEquivalent :
    State.reset.arg1 = State.reset.arg0 ∧
    ∃ s : State, s.arg0 = 500 ∧ s.arg1 = 500 ∧ s.arg2 = 500 ∧ s.arg3 = 500 :=
  ⟨rfl, { State.reset with arg0 := 500, arg1 := 500, arg2 := 500, arg3 := 500 }, rfl, rfl, rfl, rfl⟩

theorem witness_FadeStartsTheEngine :
    ∀ s : State, s = { State.reset with arg0 := 100, arg1 := 0, arg2 := 300 } →
      OutReady s 0 ∧ s.arg0.toNat ≤ 100 ∧ s.arg1.toNat ≤ 100 := by
  rintro _ rfl
  decide

theorem witness_StopIsIdempotent : OutReady (with0 (pulsing 8 .rising)) 0 ∧ OutReady State.reset 3 := by decide

theorem witness_StopAllStopsEveryChannel : State.reset.busy = false ∧ State.reset.out.length ≤ 16 := by decide

theorem witness_TimeStepAdvancesNow :
    ∀ o ∈ (with0 (pulsing 8 .rising)).out, o.engine = .pulse → o.pperiod ≠ 0 := by decide

/-- The channel's record, an engine and the next elapsed time `e`, in a state that meets the invariant and can step. -/
def ticks (o : OutCh) (now : Time) (e : Nat) : Prop :=
  (one o now).Inv ∧ (∃ t : State, timeStep (one o now) = .next t ∧ (t.now - o.start).toNat = e) ∧
  (one o now).out[(0 : Chan).toNat]? = some o

/-- Off the grid; then `d` at T_ON and past it, at the end of ON and past it, and at the end of FALLING and past it. -/
theorem witness_PulseRunsOnItsGrid :
    (pulsing 8 .rising).engine = .pulse ∧ ticks (pulsing 8 .rising) 18 19 ∧
    ticks (pulsing 8 .rising) 499 500 ∧ ticks (pulsing 8 .rising) 519 520 ∧ ticks (pulsing 8 .rising) 999 1000 ∧
    ticks (pulsing 8 .rising) 1019 1020 ∧ ticks (pulsing 8 .rising) 1499 1500 ∧ ticks (pulsing 8 .rising) 1519 1520 :=
  have h (now : Time) : (one (pulsing 8 .rising) now).Inv := one_inv _ _ _ pulsing_inv (by simp [pulsing, OutCh.reset])
  ⟨rfl, ⟨h _, ⟨_, rfl, rfl⟩, rfl⟩, ⟨h _, ⟨_, rfl, rfl⟩, rfl⟩, ⟨h _, ⟨_, rfl, rfl⟩, rfl⟩, ⟨h _, ⟨_, rfl, rfl⟩, rfl⟩,
    ⟨h _, ⟨_, rfl, rfl⟩, rfl⟩, ⟨h _, ⟨_, rfl, rfl⟩, rfl⟩, ⟨h _, ⟨_, rfl, rfl⟩, rfl⟩⟩

theorem witness_PulseDutyRisesHoldsAndFalls :
    ∃ (o : OutCh) (a b c : Nat), a = o.tOn.toNat ∧ b = a + o.on.toNat ∧ c = b + o.tOff.toNat ∧ 0 < a ∧ b < c :=
  ⟨pulsing 0 .rising, 500, 1000, 1500, by decide⟩

/-- Off the grid, the last sample before F_DUR = 250, and the first one after it. -/
theorem witness_FadeRunsOnItsGrid :
    (fading 0 100 250 40).engine = .fade ∧ ticks (fading 0 100 250 40) 198 199 ∧ ticks (fading 0 100 250 40) 199 200 ∧
    ticks (fading 0 100 250 40) 299 300 :=
  have h (now : Time) : (one (fading 0 100 250 40) now).Inv := one_inv _ _ _ fading_inv (by simp [fading, OutCh.reset])
  ⟨rfl, ⟨h _, ⟨_, rfl, rfl⟩, rfl⟩, ⟨h _, ⟨_, rfl, rfl⟩, rfl⟩, ⟨h _, ⟨_, rfl, rfl⟩, rfl⟩⟩

/-- The step before the deadline 20, and the step to it. -/
theorem witness_SettleEndsAtItsDeadline :
    (settling 20).engine = .none ∧ (settling 20).settle = true ∧ ticks (settling 20) 18 19 ∧ ticks (settling 20) 19 20 ∧
    (settling 20).settleDl = 20 :=
  ⟨rfl, rfl, ⟨one_inv _ _ _ settling_inv (by decide), ⟨_, rfl, rfl⟩, rfl⟩,
    ⟨one_inv _ _ _ settling_inv (by decide), ⟨_, rfl, rfl⟩, rfl⟩, rfl⟩

theorem witness_SettleTakesTwentyTimeSteps :
    (one blinking2000).Inv ∧ OutReady (one blinking2000) 0 ∧ ((one blinking2000).outAt 0).blinking = true ∧
    ∃ t : State, exec (.write 0 true) (one blinking2000) = .next t :=
  ⟨one_inv _ _ _ blinking_inv (by decide), by decide, rfl, _, rfl⟩

/-- FADE 0, 0, 100, 250, which runs for 300 time steps (95 section 2.5), and one of duration 0, where no step is left. -/
theorem witness_FadeEndsAtItsEndDuty :
    (∃ s t : State, s.Inv ∧ OutReady s 0 ∧ s.arg0.toNat ≤ 100 ∧ s.arg1.toNat ≤ 100 ∧ exec (.fade 0) s = .next t ∧
      0 < (s.arg2.toNat + 99) / 100 * 100) ∧
    ∃ s t : State, s.Inv ∧ OutReady s 0 ∧ s.arg0.toNat ≤ 100 ∧ s.arg1.toNat ≤ 100 ∧ exec (.fade 0) s = .next t ∧
      s.arg2 = 0 :=
  have h : (one OutCh.reset).Inv := one_inv _ _ _ idle_inv (by decide)
  ⟨⟨{ one OutCh.reset with arg1 := 100, arg2 := 250 }, _, { h with }, by decide, by decide, by decide, rfl, by decide⟩,
    one OutCh.reset, _, h, by decide, by decide, by decide, rfl, rfl⟩

theorem witness_StoppedChannelStaysQuiet :
    (one (pulsing 8 .rising)).Inv ∧ OutReady (one (pulsing 8 .rising)) 0 ∧
    ∃ t : State, exec (.stop 0) (one (pulsing 8 .rising)) = .next t :=
  ⟨one_inv _ _ _ pulsing_inv (by decide), by decide, _, rfl⟩

/-- Two states that differ outside the channel. -/
theorem witness_ChannelsDoNotInterfere :
    ∃ s1 s2 t1 t2 : State, s1 ≠ s2 ∧ s1.Inv ∧ s2.Inv ∧ s1.cfg = s2.cfg ∧ s1.now = s2.now ∧ s1.outAt 0 = s2.outAt 0 ∧
      timeStep s1 = .next t1 ∧ timeStep s2 = .next t2 :=
  ⟨one (pulsing 8 .rising), one (pulsing 8 .rising) 0 [.timeStep], _, _, by decide,
    one_inv _ _ _ pulsing_inv (by decide), one_inv _ _ _ pulsing_inv (by decide), rfl, rfl, rfl, rfl, rfl⟩

theorem witness_RegistrationSubscribesOnce : InReady State.reset 3 ∧ InReady withIn 0 := by decide

theorem witness_ClearUnsubscribes : InReady State.reset 3 ∧ InReady withIn 0 := by decide

/-- The first edge, and one exactly MIN_INTERVAL after the last accepted edge. -/
theorem witness_AcceptedEdgePushesItsRecords :
    (∀ s : State, s = withIn → s.cfg.HasChannel .inp 0 ∧ (0 : Chan).toNat < s.inp.length ∧ (s.inAt 0).subscribed = true ∧
      (s.inAt 0).lastValid = false ∧ s.evq.length ≤ s.cfg.evqDepth) ∧
    ∀ s : State, s = { withIn { in50 with lastValid := true, lastTs := 50 } with now := 100 } →
      s.cfg.HasChannel .inp 0 ∧ (0 : Chan).toNat < s.inp.length ∧ (s.inAt 0).subscribed = true ∧
      (s.inAt 0).minInterval.toNat ≤ (s.now - (s.inAt 0).lastTs).toNat ∧ s.evq.length ≤ s.cfg.evqDepth := by
  constructor <;>
    · rintro _ rfl
      decide

/-- A channel past N_IN = 4, an Idle channel, and an edge one time unit too soon. -/
theorem witness_OtherEdgesAreDropped :
    State.reset.cfg.nIn ≤ (4 : Chan).toNat ∧ (State.reset.inAt 3).subscribed = false ∧
    ∀ s : State, s = { withIn { in50 with lastValid := true, lastTs := 50 } with now := 99 } →
      (s.inAt 0).lastValid = true ∧ (s.now - (s.inAt 0).lastTs).toNat < (s.inAt 0).minInterval.toNat := by
  refine ⟨by decide, by decide, ?_⟩
  rintro _ rfl
  decide

theorem witness_TouchRegistrationSetsItsSlot : TouchReady State.reset 7 := by decide

/-- The first channel past N_TOUCH = 8 and the last one below it, and an event queue that is full. -/
theorem witness_TouchEventUpdatesAndPushes :
    State.reset.cfg.nTouch ≤ (8 : Chan).toNat ∧
    ∀ s : State, s = { withPad with evq := List.replicate 16 0x12341500 } →
      s.cfg.HasChannel .touch 7 ∧ (7 : Chan).toNat < s.touch.length ∧ s.evq.length ≤ s.cfg.evqDepth := by
  refine ⟨by decide, ?_⟩
  rintro _ rfl
  decide

/-- A full event queue; test_touch_events has an empty one. -/
theorem witness_PressThenReleaseFiresBothInOrder :
    ∀ s : State, s = { withPad with evq := List.replicate 16 0x12341500 } →
      s.cfg.HasChannel .touch 5 ∧ (5 : Chan).toNat < s.touch.length ∧ (s.touchAt 5).pressSlot.valid = true ∧
      (s.touchAt 5).releaseSlot.valid = true ∧ s.evq.length ≤ s.cfg.evqDepth := by
  rintro _ rfl
  decide

theorem witness_IllFormedAccessIsABusError : (1 ≠ 4 ∨ (0x000 : BitVec 12).toNat % 4 ≠ 0) ∧ (0x002 : BitVec 12).toNat % 4 ≠ 0 := by
  decide

/-- The ends of each range of unmapped offsets in the build N_OUT = 4, N_IN = 4, N_TOUCH = 8. -/
theorem witness_UnmappedReadsZeroAndIgnoresWrites :
    [(0x040 : BitVec 12), 0x0FC, 0x140, 0x1FC, 0x20C, 0x23C, 0x240, 0x2FC, 0x320, 0x33C, 0x340, 0xFFC].all (fun off =>
      decide (off.toNat % 4 = 0 ∧
        ((0x040 ≤ off.toNat ∧ off.toNat < 0x100) ∨
          (0x100 ≤ off.toNat ∧ off.toNat < 0x200 ∧ State.reset.cfg.nOut ≤ (off.toNat - 0x100) / 16) ∨
          (0x200 ≤ off.toNat ∧ off.toNat < 0x300 ∧
            (State.reset.cfg.nIn ≤ (off.toNat - 0x200) / 16 ∨ off.toNat % 16 = 12)) ∨
          (0x300 ≤ off.toNat ∧ off.toNat < 0x340 ∧ State.reset.cfg.nTouch ≤ (off.toNat - 0x300) / 4) ∨
          0x340 ≤ off.toNat))) = true := by decide

/-- ID, EVT_DATA and the last mapped offset. -/
theorem witness_ReadOnlyRegistersIgnoreWrites :
    [(0x000 : BitVec 12), 0x01C, 0x31C].all (fun off => decide (off.toNat % 4 = 0 ∧ off.toNat ≠ 0x00C ∧ off.toNat ≠ 0x014 ∧
      off.toNat ≠ 0x020 ∧ off.toNat ≠ 0x024 ∧ off.toNat ≠ 0x028 ∧ off.toNat ≠ 0x02C ∧ off.toNat ≠ 0x030)) = true := by decide

theorem witness_OtherReadsHaveNoSideEffect :
    [(0x000 : BitVec 12), 0x018, 0x020, 0x034, 0x03C, 0xFFC].all
      (fun off => decide (off.toNat % 4 = 0 ∧ off.toNat ≠ 0x01C ∧ off.toNat ≠ 0x038)) = true := by decide

theorem witness_EventDataPopsTheOldest :
    ({ State.reset with evq := [0x00010021] }).evq = 0x00010021 :: [] ∧ State.reset.evq = [] := by decide

/-- NOW_LO is read at 0xFFFFFFFF; a time step carries into the upper half before NOW_HI is read. -/
theorem witness_NowReadsAreConsistent :
    ∃ s t u v : State, s.schedule = .read 0x038 4 :: ([.timeStep] ++ .read 0x03C 4 :: []) ∧
      (.read 0x038 4 : Transition) ∉ [Transition.timeStep] ∧ Transition.reset ∉ [Transition.timeStep] ∧
      step s = .next t ∧ Sys2Proof.core.run 1 t = .next u ∧ step u = .next v :=
  ⟨one OutCh.reset 0xFFFFFFFF [.read 0x038 4, .timeStep, .read 0x03C 4], _, _, _, rfl, by decide, by decide, rfl, rfl, rfl⟩

theorem witness_RegistersReadTheState :
    State.reset.cfg.Legal ∧ State.reset.evq.length ≤ 255 ∧ State.reset.cfg.HasChannel .out 3 ∧
    State.reset.cfg.HasChannel .inp 3 ∧ State.reset.cfg.HasChannel .touch 7 := by decide

/-- One state for each clause: a time step, a reset, and a read. -/
theorem witness_OnlyTimeStepsMoveNow :
    ∃ s1 t1 s2 t2 s3 t3 : State, (step s1 = .next t1 ∧ nextTransition s1 = .timeStep) ∧
      (step s2 = .next t2 ∧ nextTransition s2 = .reset) ∧
      (step s3 = .next t3 ∧ nextTransition s3 ≠ .timeStep ∧ nextTransition s3 ≠ .reset) :=
  ⟨one OutCh.reset, _, one OutCh.reset 7 [.reset], _, one OutCh.reset 7 [.read 0x000 4], _, ⟨rfl, rfl⟩, ⟨rfl, rfl⟩, rfl, by decide,
    by decide⟩

/-- A command that reads ARG0. -/
theorem witness_OnlyTheHostChangesArguments :
    ∃ s t : State, step s = .next t ∧ nextTransition s ≠ .reset ∧ (∀ w : Word, nextTransition s ≠ .write 0x020 4 w) ∧
      (∀ w : Word, nextTransition s ≠ .write 0x024 4 w) ∧ (∀ w : Word, nextTransition s ≠ .write 0x028 4 w) ∧
      ∀ w : Word, nextTransition s ≠ .write 0x02C 4 w :=
  ⟨one OutCh.reset 0 [.write 0x030 4 0x00000010], _, rfl, by decide, by simp [nextTransition, one], by simp [nextTransition, one],
    by simp [nextTransition, one], by simp [nextTransition, one]⟩

/-- One state for each clause. -/
theorem witness_EventQueueIsFirstInFirstOut :
    (∃ t : State, step (one OutCh.reset 0 [.read 0x01C 4]) = .next t) ∧
    (∃ t : State, step (one OutCh.reset 0 [.edge 0 true]) = .next t) ∧
    (∃ t : State, step (one OutCh.reset 0 [.touch 5 .press]) = .next t) ∧
    (∃ t : State, step (one OutCh.reset 0 [.reset]) = .next t) ∧
    ∃ t : State, step (one OutCh.reset 0 [.timeStep]) = .next t :=
  ⟨⟨_, rfl⟩, ⟨_, rfl⟩, ⟨_, rfl⟩, ⟨_, rfl⟩, _, rfl⟩

theorem witness_ResetRestoresAndIsSilent :
    ∃ s t : State, s.schedule = .reset :: [.timeStep] ∧ step s = .next t ∧ s.now = 40 :=
  ⟨one (pulsing 8 .rising) 40 [.reset, .timeStep], _, rfl, rfl, rfl⟩

/-- A pulse tick, which changes DUTY. -/
theorem witness_RecordsTrackThePins :
    ∃ s t : State, s.Inv ∧ step s = .next t ∧ nextTransition s ≠ .reset ∧ s.cfg.HasChannel .out 0 ∧
      (t.outAt 0).view ≠ (s.outAt 0).view :=
  ⟨one (pulsing 8 .rising) 59, _, one_inv _ _ _ pulsing_inv (by decide), rfl, by decide, by decide, by decide⟩

/-- A registration, which subscribes. -/
theorem witness_SubscribedTracksThePort :
    ∃ s t : State, s.Inv ∧ step s = .next t ∧ nextTransition s ≠ .reset ∧ s.cfg.HasChannel .inp 3 ∧
      (t.inAt 3).subscribed ≠ (s.inAt 3).subscribed :=
  ⟨one OutCh.reset 0 [.write 0x030 4 0x00070310], _, one_inv _ _ _ idle_inv (by decide), rfl, by decide, by decide, by decide⟩

theorem witness_ResetMeetsTheInvariant :
    Params.vectors.Legal ∧
    ({ nOut := 16, nIn := 1, nTouch := 16, evqDepth := 255, carrierPeriod := 0xFFFFFFFF, rounding := .halfUp } : Params).Legal := by
  decide

/-- A settling channel one step before its deadline. -/
theorem witness_EveryStepKeepsTheInvariant : (one (settling 20) 19 [.timeStep]).Inv :=
  one_inv _ _ _ settling_inv (by decide)

/-- A state with a running pulse, reached by PULSE 0. -/
theorem witness_EffectAndEngineAgreeInEveryReachableState :
    ∃ s : State, Reachable s ∧ s.cfg.HasChannel .out 0 ∧ (s.outAt 0).engine = .pulse :=
  ⟨_, .step _ _ (.reset Params.vectors [.write 0x030 4 0x00000004] (by decide)) rfl, by decide, rfl⟩

/-- A state with a record in EVQ, reached by IN_ON_CHANGED 1, 3, 0 and an edge. -/
theorem witness_NoRecordIsZero : ∃ s : State, Reachable s ∧ s.evq = [0x00030121] :=
  ⟨_, .step _ _ (.step _ _ (.reset Params.vectors [.write 0x030 4 0x00030112, .edge 1 true] (by decide)) rfl) rfl, by decide⟩

end Sys2Proof.Tests
end

/-! The proofs of the statements about the step and the clock (R5, R14, R53, R75) and about BLINK (R92, R96). -/

namespace Sys2Proof.Machine

/-! ### The step that runs a command (R5, R53) -/

theorem tableWord_toNat (w : Word) : tableWord 32 w.toNat = w := by
  apply BitVec.eq_of_toNat_eq
  rw [tableWord, BitVec.toNat_ofNat, Nat.mod_mod, Nat.mod_eq_of_lt w.isLt]

theorem cmdWrite_of_decode_ok {w : Word} {i : Instr} (h : decode w = .ok i) (s : State) : cmdWrite w s = exec i s := by
  simp only [cmdWrite, h]

theorem cmdWrite_of_decode_error {w : Word} {e : DecodeError} (h : decode w = .error e) (s : State) :
    cmdWrite w s = refuseWord e s := by
  simp only [cmdWrite, h]

/-- A step whose transition is an accepted write to CMD executes the word written (R53). -/
theorem step_of_cmdWrite {s : State} {w : Word} {l : List Transition} (h : s.schedule = .write 0x030 4 w :: l) :
    step s = cmdWrite w { s with schedule := l, resp := .done } :=
  calc step s = hostWrite 0x030 4 w { s with schedule := l } := step_of_schedule h
    _ = writeAt 0x030 w { s with schedule := l, resp := .done } := hostWrite_of_aligned (by decide) w _
    _ = cmdWrite w { s with schedule := l, resp := .done } := rfl

/-- The word that `withFetchWord` schedules is the one the next step executes (log 3). -/
theorem step_withFetchWord (s : State) (w : Word) :
    step (s.withFetchWord 32 w.toNat) = cmdWrite w { s with resp := .done } := by
  have h : (s.withFetchWord 32 w.toNat).schedule = .write 0x030 4 w :: s.schedule := by
    simp only [State.withFetchWord, tableWord_toNat]
    rfl
  exact step_of_cmdWrite h

/-- Settles O8: the step is the transition that the schedule names, and an accepted CMD write is `cmdWrite` of its word. -/
theorem cmdWriteStepRunsTheCommand : Obligations.CmdWriteStepRunsTheCommand := by
  refine ⟨fun s w l i hs hd => ?_, fun s w l e hs hd => ?_, fun s w i hd => ?_, fun s l => ?_, fun s => step_of_empty⟩
  · rw [step_of_cmdWrite hs, cmdWrite_of_decode_ok hd]
  · rw [step_of_cmdWrite hs, cmdWrite_of_decode_error hd]
  · rw [step_withFetchWord, cmdWrite_of_decode_ok hd]
  · exact ⟨fun _ _ => step_of_schedule, fun _ _ _ => step_of_schedule, step_of_schedule, fun _ _ => step_of_schedule,
      fun _ _ => step_of_schedule, step_of_schedule⟩

/-! ### NOW and the parameters (R6, R14) -/

/-- `t` has the time and the build of `s`. -/
def SameClock (s t : State) : Prop := t.now = s.now ∧ t.cfg = s.cfg

theorem sameClock_of_cmdFrame {s t : State} (h : CmdFrame s t) : SameClock s t := by
  obtain ⟨ht, -⟩ := h
  rw [ht]
  exact ⟨rfl, rfl⟩

theorem sameClock_cmdWrite {w : Word} {s t : State} (h : cmdWrite w s = .next t) : SameClock s t := by
  obtain ⟨u, hu, hf⟩ := cmdWrite_frame w s
  cases hu.symm.trans h
  exact sameClock_of_cmdFrame hf

theorem sameClock_setArg (s : State) (i : Fin 4) (v : Word) : SameClock s (s.setArg i v) := by
  unfold State.setArg
  split <;> exact ⟨rfl, rfl⟩

theorem sameClock_readAt (off : BitVec 12) (s : State) : SameClock s (readAt off s) := by
  obtain ⟨-, e⟩ | ⟨-, e⟩ | ⟨-, -, e⟩ := readAt_cases off s <;> rw [e] <;> exact ⟨rfl, rfl⟩

/-- No register write touches NOW or the build: each kind of write that `writeAt_cases` lists leaves both. -/
theorem sameClock_writeAt {off : BitVec 12} {w : Word} {s t : State} (h : writeAt off w s = .next t) : SameClock s t := by
  obtain ⟨-, e⟩ | ⟨-, e⟩ | ⟨-, e⟩ | ⟨i, -, e⟩ | e := writeAt_cases off w s <;> rw [e] at h
  · exact sameClock_cmdWrite h
  · cases h
    rw [writeStatus_eq]
    exact ⟨rfl, rfl⟩
  · cases h
    exact ⟨rfl, rfl⟩
  · cases h
    exact sameClock_setArg s i w
  · cases h
    exact ⟨rfl, rfl⟩

theorem sameClock_edge (ch : Chan) (lvl : Bool) (s : State) : SameClock s (edge ch lvl s) := by
  rw [edge_frame]
  exact ⟨rfl, rfl⟩

theorem sameClock_touchEvent (ch : Chan) (ev : TouchEvent) (s : State) : SameClock s (touchEvent ch ev s) := by
  rw [touchEvent_frame]
  exact ⟨rfl, rfl⟩

/-- Everything a step can do to NOW and the build: a time step advances NOW, reset zeroes it, and every other transition leaves
it; the build stays in all three. -/
theorem step_clock_cases {s t : State} (h : step s = .next t) :
    (nextTransition s = .timeStep ∧ t.now = s.now + 1 ∧ t.cfg = s.cfg) ∨
      (nextTransition s = .reset ∧ t.now = 0 ∧ t.cfg = s.cfg) ∨
      (nextTransition s ≠ .timeStep ∧ nextTransition s ≠ .reset ∧ SameClock s t) := by
  obtain ⟨off, width, hn, ⟨-, rfl⟩ | ⟨-, rfl⟩⟩ | ⟨off, width, w, hn, ⟨-, rfl⟩ | ⟨-, hw⟩⟩ | ⟨hn, rfl⟩ | ⟨ch, lvl, hn, rfl⟩ |
    ⟨ch, ev, hn, rfl⟩ | ⟨hn, rfl⟩ := step_cases h
  case inr.inr.inl => exact .inl ⟨hn, rfl, rfl⟩
  case inr.inr.inr.inr.inr => exact .inr (.inl ⟨hn, rfl, rfl⟩)
  all_goals refine .inr (.inr ⟨by simp [hn], by simp [hn], ?_⟩)
  · exact ⟨rfl, rfl⟩
  · exact sameClock_readAt off (takeScheduled s)
  · exact ⟨rfl, rfl⟩
  · have hc : SameClock { takeScheduled s with resp := .done } t := sameClock_writeAt hw
    exact hc
  · exact sameClock_edge ch lvl (takeScheduled s)
  · exact sameClock_touchEvent ch ev (takeScheduled s)

/-- Settles O51, clause by clause from `step_clock_cases`. -/
theorem onlyTimeStepsMoveNow : Obligations.OnlyTimeStepsMoveNow := by
  intro s t h
  obtain ⟨hn, hnow, hcfg⟩ | ⟨hn, hnow, hcfg⟩ | ⟨hnt, hnr, hnow, hcfg⟩ := step_clock_cases h
  · exact ⟨fun _ => hnow, fun hr => by simp [hn] at hr, fun ht => absurd hn ht, hcfg⟩
  · exact ⟨fun ht => by simp [hn] at ht, fun _ => hnow, fun _ hr => absurd hn hr, hcfg⟩
  · exact ⟨fun ht => absurd ht hnt, fun hr => absurd hr hnr, fun _ _ => hnow, hcfg⟩

/-! ### Rounding (R10) -/

theorem rdiv_of_below_half (r : Rounding) {n d : Nat} (h : 2 * (n % d) < d) : rdiv r n d = n / d := by
  simp [rdiv, h]

theorem rdiv_of_above_half (r : Rounding) {n d : Nat} (h : d < 2 * (n % d)) : rdiv r n d = n / d + 1 := by
  simp [rdiv, h, Nat.lt_asymm h]

theorem rdiv_halfEven_of_half {n d : Nat} (h : 2 * (n % d) = d) : rdiv .halfEven n d = n / d + n / d % 2 := by
  simp [rdiv, h]

theorem rdiv_halfUp_of_half {n d : Nat} (h : 2 * (n % d) = d) : rdiv .halfUp n d = n / d + 1 := by
  simp [rdiv, h]

/-! ### BLINK (R92, R96) -/

theorem blinkOff_eq (s : State) (offp : Bool) : blinkOff s offp = if offp then s.arg1 else s.arg0 := rfl

/-- The period check leaves no overflow in the 32-bit PERIOD. -/
theorem blinkPeriod_toNat {on off : Word} (h : BlinkPeriodOk on off) :
    (blinkPeriod on off).toNat = on.toNat + off.toNat := by
  obtain ⟨-, hle⟩ := h
  rw [blinkPeriod, BitVec.toNat_ofNat, Nat.mod_eq_of_lt (by omega)]

/-- The blink duty is at most 100, so DUTY's 7 bits hold it. -/
theorem blinkDuty_toNat (rd : Rounding) {on off : Word} (h : BlinkPeriodOk on off) :
    (blinkDuty rd on off).toNat = rdiv rd (100 * on.toNat) (on.toNat + off.toNat) := by
  obtain ⟨hpos, -⟩ := h
  exact dutyOf_toNat (rdiv_le rd (by omega) (by omega))

theorem exec_blink_of_ready {s : State} {ch : Chan} {offp : Bool} (hr : OutReady s ch)
    (hp : BlinkPeriodOk (blinkOn s) (blinkOff s offp)) :
    exec (.blink ch offp) s = .next (s.onOut ch (doBlink s.cfg.rounding (blinkOn s) (blinkOff s offp) ch)) := by
  obtain ⟨hbusy, hch, -⟩ := hr
  have hw : (Instr.blink ch offp).wellFormed s.cfg = true := decide_eq_true hch
  rw [exec_of_ready hbusy hw]
  exact if_pos hp

theorem OutReady.channel_lt {s : State} {ch : Chan} (h : OutReady s ch) : ch.toNat < s.out.length := by
  obtain ⟨-, hch, hlen⟩ := h
  exact hlen ▸ hch

/-- Settles O16: `rdiv` by its remainder below, above and at the half, and BLINK by the record and the operations of `doBlink`. -/
theorem blinkSetsPeriodAndDuty : Obligations.BlinkSetsPeriodAndDuty := by
  refine ⟨fun r n d _ => ⟨rdiv_of_below_half r, rdiv_of_above_half r, ?_, ?_⟩, fun s ch offp hr hp => ?_⟩
  · rintro h rfl
    exact rdiv_halfEven_of_half h
  · rintro h rfl
    exact rdiv_halfUp_of_half h
  · rw [← blinkOff_eq] at hp ⊢
    have ho := State.onOut_outAt_self s (doBlink s.cfg.rounding (blinkOn s) (blinkOff s offp) ch) hr.channel_lt
    rw [doBlink_o, ChanRun.start_o] at ho
    refine ⟨_, exec_blink_of_ready hr hp, onOut_frame _ _ _, ?_, ?_, ?_, ?_⟩
    · rw [ho]
      exact blinkPeriod_toNat hp
    · rw [ho]
      exact blinkDuty_toNat s.cfg.rounding hp
    · rw [ho]
    · rw [onOut_emitted, doBlink_ops, ho]
      rfl

end Sys2Proof.Machine

/-! The proofs of the statements about the state (10_state.md): the invariant, the records and the pins, EVQ, the arguments, and
what the registers read. -/

namespace Sys2Proof.Machine

/-! ### What a command does (R91 to R114) -/

/-- The procedures that the commands run on output channel `ch`, with what their operand checks have passed (R91 to R99). -/
inductive OutProc (s : State) (ch : Chan) : (ChanRun → ChanRun) → Prop where
  | write (v : Bool) : OutProc s ch (doWrite s.now ch v)
  | blink (on off : Word) (h : BlinkPeriodOk on off) : OutProc s ch (doBlink s.cfg.rounding on off ch)
  | pulse (p : Profile) (hd : ¬ p.Delegates) (hp : PulsePeriodOk p) : OutProc s ch (startPulse s.cfg s.now p ch)
  | fade (a b : Duty) (d : Word) (ha : a.toNat ≤ 100) (hb : b.toNat ≤ 100) : OutProc s ch (startFade s.cfg s.now a b d ch)
  | stop : OutProc s ch (doStop ch)

/-- The writes of one slot of an input record (R103). -/
inductive InSlotWrite (tok : Token) : (InCh → InCh) → Prop where
  | high : InSlotWrite tok (fun c => { c with high := Slot.set tok })
  | low : InSlotWrite tok (fun c => { c with low := Slot.set tok })
  | changed : InSlotWrite tok (fun c => { c with changed := Slot.set tok })

/-- The writes of one slot of a touch record (R111). -/
inductive TouchSlotWrite (tok : Token) : (TouchCh → TouchCh) → Prop where
  | press : TouchSlotWrite tok (fun t => { t with pressSlot := Slot.set tok })
  | release : TouchSlotWrite tok (fun t => { t with releaseSlot := Slot.set tok })
  | held : TouchSlotWrite tok (fun t => { t with heldSlot := Slot.set tok })

/-- Everything a word written to CMD can make of `s`. -/
inductive CmdEffect (s : State) : State → Prop where
  | nop : CmdEffect s s
  | refused (code : ErrCode) (h : code ≠ .none) : CmdEffect s (s.raise code)
  | out (ch : Chan) (f : ChanRun → ChanRun) (hb : s.busy = false) (hc : s.cfg.HasChannel .out ch) (hf : OutProc s ch f) :
      CmdEffect s (s.onOut ch f)
  | stopAll (hb : s.busy = false) : CmdEffect s (s.onEveryOut doStop)
  | register (ch : Chan) (tok : Token) (set : InCh → InCh) (hc : s.cfg.HasChannel .inp ch) (hset : InSlotWrite tok set) :
      CmdEffect s (registerSlot ch set s)
  | clear (ch : Chan) (hc : s.cfg.HasChannel .inp ch) :
      CmdEffect s ((s.setIn ch InCh.reset).emit (clearOps ch (s.inAt ch)))
  | registerTouch (ch : Chan) (tok : Token) (set : TouchCh → TouchCh) (hset : TouchSlotWrite tok set) :
      CmdEffect s (registerHandler ch set s)

theorem blinkWith_cases {s t : State} {ch : Chan} {on off : Word} (hb : s.busy = false) (hc : s.cfg.HasChannel .out ch)
    (h : blinkWith ch on off s = .next t) : CmdEffect s t := by
  unfold blinkWith at h
  split at h <;> cases h
  · exact .out ch _ hb hc (.blink on off ‹_›)
  · exact .refused .periodRange (by decide)

theorem pulseWith_cases {s t : State} {ch : Chan} {p : Profile} (hb : s.busy = false) (hc : s.cfg.HasChannel .out ch)
    (hd : ¬ p.Delegates) (h : pulseWith ch p s = .next t) : CmdEffect s t := by
  unfold pulseWith at h
  split at h <;> cases h
  · exact .out ch _ hb hc (.pulse p hd ‹_›)
  · exact .refused .periodRange (by decide)

/-- An operand that the duty check has bounded keeps its value in DUTY's 7 bits. -/
theorem dutyOperand_le {v : Word} (h : v.toNat ≤ 100) : (dutyOperand v).toNat ≤ 100 := by
  rw [dutyOperand, BitVec.toNat_setWidth]
  omega

/-- The effect of a command whose checks have passed. -/
theorem effect_cases {i : Instr} {s t : State} (hb : s.busy = false) (hw : i.wellFormed s.cfg = true)
    (h : effect i s = .next t) : CmdEffect s t := by
  cases i <;> simp only [effect] at h
  case nop => cases h; exact .nop
  case write ch v => cases h; exact .out ch _ hb (of_decide_eq_true hw) (.write v)
  case toggle ch => cases h; exact .out ch _ hb (of_decide_eq_true hw) (.write _)
  case blink ch offp => exact blinkWith_cases hb (of_decide_eq_true hw) h
  case pulse ch fl =>
    split at h
    · exact blinkWith_cases hb (of_decide_eq_true hw) h
    · exact pulseWith_cases hb (of_decide_eq_true hw) ‹_› h
  case fade ch =>
    split at h <;> cases h
    · next hd => exact .out ch _ hb (of_decide_eq_true hw) (.fade _ _ _ (dutyOperand_le hd.1) (dutyOperand_le hd.2))
    · exact .refused .dutyRange (by decide)
  case stop ch => cases h; exact .out ch _ hb (of_decide_eq_true hw) .stop
  case stopAll => cases h; exact .stopAll hb
  case inOnHigh ch tok => cases h; exact .register ch tok _ (of_decide_eq_true hw) .high
  case inOnLow ch tok => cases h; exact .register ch tok _ (of_decide_eq_true hw) .low
  case inOnChanged ch tok => cases h; exact .register ch tok _ (of_decide_eq_true hw) .changed
  case inClear ch => cases h; exact .clear ch (of_decide_eq_true hw)
  case touchOnPress ch tok => cases h; exact .registerTouch ch tok _ .press
  case touchOnRelease ch tok => cases h; exact .registerTouch ch tok _ .release
  case touchOnHeld ch tok => cases h; exact .registerTouch ch tok _ .held

/-- R120's checks refuse the command or let its effect through. -/
theorem exec_cases {i : Instr} {s t : State} (h : exec i s = .next t) : CmdEffect s t := by
  rw [exec_eq] at h
  cases hb : s.busy
  · rw [hb, if_neg Bool.false_ne_true] at h
    split at h
    · exact effect_cases hb ‹_› h
    · cases h; exact .refused .badChannel (by decide)
  · rw [hb, if_pos rfl] at h
    cases h; exact .refused .busy (by decide)

theorem cmdWrite_cases {w : Word} {s t : State} (h : cmdWrite w s = .next t) : CmdEffect s t := by
  unfold cmdWrite at h
  split at h
  · exact exec_cases h
  · next e _ =>
      cases h
      refine .refused _ ?_
      cases s.busy <;> cases e <;> decide

/-! ### The records that the procedures leave -/

theorem elapsed_self (now : Time) (o : OutCh) (h : o.start = now) : elapsed now o = 0 := by
  simp [elapsed, h]

/-- The profile at the start of its period: RISING, at full duty if there is no rising part (R85). -/
theorem pulseAt_zero (rd : Rounding) (o : OutCh) : pulseAt rd o 0 = (.rising, if o.tOn = 0 then 100 else 0) := by
  have h0 : o.tOn.toNat = 0 ↔ o.tOn = 0 := by rw [← BitVec.toNat_inj]; rfl
  by_cases ht : o.tOn = 0
  · simp [pulseAt, ht]
  · have hpos : 0 < o.tOn.toNat := Nat.pos_of_ne_zero (mt h0.1 ht)
    simp [pulseAt, h0, rdiv_zero_left rd hpos]

/-- PULSE's record: the profile is loaded, and its first duty applied at START (R97). -/
theorem startPulse_o (cfg : Params) (now : Time) (p : Profile) (ch : Chan) (r : ChanRun) :
    (startPulse cfg now p ch r).o = { r.o with
      engine := .pulse, effect := .pulsing, start := now, tOn := p.tOn, on := p.on, tOff := p.tOff, off := p.off,
      pperiod := BitVec.ofNat 32 p.sum, period := cfg.carrierPeriod, phase := .rising,
      duty := if p.tOn = 0 then 100 else 0 } := by
  simp only [startPulse, pulseEval_o, elapsed_self, Nat.zero_mod, pulseAt_zero, ensureCarrier_o, cancelEngine_o]
  split <;> rfl

/-- A fade that ends as it starts shows its end duty, any other its start duty (R89, R98). -/
theorem startFade_o (cfg : Params) (now : Time) (a b : Duty) (d : Word) (ch : Chan) (r : ChanRun) :
    (startFade cfg now a b d ch r).o = { r.o with
      engine := if d = 0 then .none else .fade, effect := .fading, start := now, fStart := a, fEnd := b, fDur := d,
      period := cfg.carrierPeriod, duty := if d = 0 then b else a } := by
  have h0 : d.toNat ≤ 0 ↔ d = 0 := by rw [Nat.le_zero, ← BitVec.toNat_inj]; rfl
  simp only [startFade, fadeEval_o, elapsed_self, h0, ensureCarrier_o, cancelEngine_o]
  by_cases hd : d = 0
  · simp [hd]
  · have hpos : 0 < d.toNat := Nat.pos_of_ne_zero (fun e => hd (h0.1 (Nat.le_of_eq e)))
    simp [fadeAt, rdiv_mul _ _ hpos, dutyOf]

end Sys2Proof.Machine

/-! ### The invariant of an output record (R21 to R32) -/

namespace Sys2Proof.Machine

/-- A record without an engine keeps the invariant whatever its pin's fields became, if its effect is no pulse. -/
theorem OutCh.Inv.withoutEngine {o p : OutCh} (ho : o.Inv)
    (hp : p = { o with
      engine := .none, effect := p.effect, level := p.level, duty := p.duty, period := p.period, settle := p.settle,
      settleDl := p.settleDl })
    (he : p.effect ≠ .pulsing) (hs : p.settle = true → p.effect = .writing) (hd : p.duty.toNat ≤ 100) : p.Inv := by
  have hn : p.engine = .none := by rw [hp]
  exact
    { pulse_iff := by simp [hn, he]
      fade_fading := by simp [hn]
      settle_writing := fun h => ⟨hs h, hn⟩
      duty_le := hd
      fStart_le := by rw [hp]; exact ho.fStart_le
      fEnd_le := by rw [hp]; exact ho.fEnd_le
      pperiod_eq := by rw [hp]; exact ho.pperiod_eq
      pulse_pos := by simp [hn] }

/-- STOP, alone or in STOP_ALL, keeps the invariant of a record that is not settling (R93). -/
theorem doStop_inv (ch : Chan) {o : OutCh} (ho : o.Inv) (hs : o.settle = false) : (doStop ch (ChanRun.start o)).o.Inv := by
  rw [doStop_o]
  refine ho.withoutEngine rfl (by simp) (by simp [hs]) ?_
  dsimp only
  split
  · decide
  · exact ho.duty_le

/-- A record that is not settling keeps its invariant under each command's procedure. -/
theorem OutProc.inv {s : State} {ch : Chan} {f : ChanRun → ChanRun} (hf : OutProc s ch f) {o : OutCh} (ho : o.Inv)
    (hs : o.settle = false) : (f (ChanRun.start o)).o.Inv := by
  cases hf with
  | write v =>
    rw [doWrite_o]
    split
    · exact ho.withoutEngine rfl (by simp) (fun _ => rfl) (by simp)
    · exact ho.withoutEngine rfl (by simp) (fun _ => rfl) (by simp)
  | blink on off h =>
    rw [doBlink_o]
    refine ho.withoutEngine rfl (by simp) (by simp [hs]) ?_
    rw [blinkDuty_toNat _ h]
    exact rdiv_le _ h.1 (by omega)
  | pulse p hd hp =>
    rw [startPulse_o]
    have hsum : (BitVec.ofNat 32 p.sum).toNat = p.sum := by
      rw [BitVec.toNat_ofNat, Nat.mod_eq_of_lt (by omega)]
    exact
      { pulse_iff := by simp
        fade_fading := by simp
        settle_writing := by simp [hs]
        duty_le := by dsimp only; split <;> decide
        fStart_le := ho.fStart_le
        fEnd_le := ho.fEnd_le
        pperiod_eq := hsum
        pulse_pos := fun _ => Nat.pos_of_ne_zero fun h0 => hd
          ⟨BitVec.eq_of_toNat_eq (Nat.eq_zero_of_add_eq_zero h0).1, BitVec.eq_of_toNat_eq (Nat.eq_zero_of_add_eq_zero h0).2⟩ }
  | fade a b d ha hb =>
    rw [startFade_o]
    exact
      { pulse_iff := by dsimp only; split <;> simp
        fade_fading := fun _ => rfl
        settle_writing := by simp [hs]
        duty_le := by dsimp only; split <;> assumption
        fStart_le := ha
        fEnd_le := hb
        pperiod_eq := ho.pperiod_eq
        pulse_pos := by dsimp only; split <;> simp }
  | stop => exact doStop_inv ch ho hs

/-- Only WRITE starts a settle delay, and it ends 20 time units from now (R91). -/
theorem OutProc.settleDl_eq {s : State} {ch : Chan} {f : ChanRun → ChanRun} (hf : OutProc s ch f) {o : OutCh}
    (hs : o.settle = false) (h : (f (ChanRun.start o)).o.settle = true) :
    (f (ChanRun.start o)).o.settleDl = s.now + 20 := by
  cases hf with
  | write v =>
    rw [doWrite_o] at h ⊢
    split at h
    · rw [if_pos ‹_›]; rfl
    · exact absurd (hs.symm.trans h) (by decide)
  | blink on off _ => rw [doBlink_o] at h; exact absurd (hs.symm.trans h) (by decide)
  | pulse p _ _ => rw [startPulse_o] at h; exact absurd (hs.symm.trans h) (by decide)
  | fade a b d _ _ => rw [startFade_o] at h; exact absurd (hs.symm.trans h) (by decide)
  | stop => rw [doStop_o] at h; exact absurd (hs.symm.trans h) (by decide)

/-! One channel's part of a time step keeps the invariant: the settle expiry, then the engine on its grid. -/

theorem settleExpiry_inv (now : Time) (ch : Chan) {r : ChanRun} (ho : r.o.Inv) : (settleExpiry now ch r).o.Inv := by
  by_cases h : r.o.settle = true ∧ now = r.o.settleDl
  · rw [settleExpiry_due ch h]
    obtain ⟨heff, heng⟩ := ho.settle_writing h.1
    exact ho.withoutEngine (by rw [← heng]) (by simp [heff]) (by simp) ho.duty_le
  · rwa [settleExpiry_not_due ch h]

theorem pulseEval_inv (rd : Rounding) (now : Time) (ch : Chan) {r : ChanRun} (ho : r.o.Inv) :
    (pulseEval rd now ch r).o.Inv := by
  rw [pulseEval_o]
  exact { ho with duty_le := by rw [dutyOf_toNat (pulseAt_le ..)]; exact pulseAt_le .. }

theorem fadeEval_inv (rd : Rounding) (now : Time) (ch : Chan) {r : ChanRun} (ho : r.o.Inv) (he : r.o.engine = .fade) :
    (fadeEval rd now ch r).o.Inv := by
  rcases Nat.lt_or_ge (now - r.o.start).toNat r.o.fDur.toNat with h | h
  · rw [fadeEval_running rd ch h]
    have hle : fadeAt rd r.o (now - r.o.start).toNat ≤ 100 :=
      (fadeAt_between rd r.o h).2.trans (max_le ho.fStart_le ho.fEnd_le)
    exact { ho with duty_le := by rw [dutyOf_toNat hle]; exact hle }
  · rw [fadeEval_done rd ch h]
    exact ho.withoutEngine rfl (by simp [ho.fade_fading he]) (fun hs => (ho.settle_writing hs).1) ho.fEnd_le

theorem engineTick_inv (rd : Rounding) (now : Time) (ch : Chan) {r : ChanRun} (ho : r.o.Inv) :
    (engineTick rd now ch r).o.Inv := by
  unfold engineTick
  split
  · split
    · exact pulseEval_inv rd now ch ho
    · exact ho
  · split
    · exact fadeEval_inv rd now ch ho ‹_›
    · exact ho
  · exact ho

theorem channelTick_inv (rd : Rounding) (now : Time) (ch : Chan) {o : OutCh} (ho : o.Inv) :
    (channelTick rd now ch (ChanRun.start o)).o.Inv :=
  engineTick_inv rd now ch (settleExpiry_inv now ch ho)

/-- An engine evaluation leaves the settle delay alone. -/
theorem engineTick_settle (rd : Rounding) (now : Time) (ch : Chan) (r : ChanRun) :
    (engineTick rd now ch r).o.settle = r.o.settle ∧ (engineTick rd now ch r).o.settleDl = r.o.settleDl := by
  unfold engineTick
  split
  · split
    · exact ⟨rfl, rfl⟩
    · exact ⟨rfl, rfl⟩
  · split
    · rw [fadeEval_o]
      exact ⟨rfl, rfl⟩
    · exact ⟨rfl, rfl⟩
  · exact ⟨rfl, rfl⟩

/-- A channel that settles after a time step settled before it, with the same deadline, which has not come yet (R78). -/
theorem channelTick_settle {rd : Rounding} {now : Time} {ch : Chan} {o : OutCh}
    (h : (channelTick rd now ch (ChanRun.start o)).o.settle = true) :
    o.settle = true ∧ now ≠ o.settleDl ∧ (channelTick rd now ch (ChanRun.start o)).o.settleDl = o.settleDl := by
  obtain ⟨hs, hd⟩ := engineTick_settle rd now ch (settleExpiry now ch (ChanRun.start o))
  rw [channelTick] at h ⊢
  rw [hs] at h
  rw [hd]
  by_cases hdue : (ChanRun.start o).o.settle = true ∧ now = (ChanRun.start o).o.settleDl
  · rw [settleExpiry_due ch hdue] at h
    cases h
  · rw [settleExpiry_not_due ch hdue] at h ⊢
    exact ⟨h, fun hn => hdue ⟨h, hn⟩, rfl⟩

end Sys2Proof.Machine

/-! ### The invariant under the state's updates -/

namespace Sys2Proof.Machine

/-- `t` is `s` but for the fields that the invariant does not speak of. -/
def SameCore (s t : State) : Prop :=
  t = { s with
    nowHiSnap := t.nowHiSnap, arg0 := t.arg0, arg1 := t.arg1, arg2 := t.arg2, arg3 := t.arg3, evtOvf := t.evtOvf,
    irqEn := t.irqEn, schedule := t.schedule, port := t.port, resp := t.resp }

theorem State.Inv.of_sameCore {s t : State} (hs : s.Inv) (h : SameCore s t) : t.Inv := by
  rw [h]
  exact { hs with }

theorem State.Inv.out_lt {s : State} (hs : s.Inv) {ch : Chan} (h : s.cfg.HasChannel .out ch) : ch.toNat < s.out.length :=
  hs.out_length.symm ▸ h

theorem State.Inv.inp_lt {s : State} (hs : s.Inv) {ch : Chan} (h : s.cfg.HasChannel .inp ch) : ch.toNat < s.inp.length :=
  hs.inp_length.symm ▸ h

/-- New output records, perhaps at a new time: each must keep its invariant, and one that settles must be the channel that
settled before, or the first. -/
theorem State.Inv.update_out {s : State} (hs : s.Inv) (now : Time) (l : List OutCh) (port : List PortEntry)
    (hlen : l.length = s.out.length) (hinv : ∀ o ∈ l, o.Inv)
    (hone : ∀ i j : Nat, ∀ o p : OutCh, l[i]? = some o → l[j]? = some p → o.settle = true → p.settle = true → i = j)
    (hsoon : ∀ o ∈ l, o.settle = true → 1 ≤ (o.settleDl - now).toNat ∧ (o.settleDl - now).toNat ≤ 20) :
    { s with now := now, out := l, port := port }.Inv :=
  { hs with out_length := hlen.trans hs.out_length, out_inv := hinv, one_settle := hone, settle_soon := hsoon }

theorem not_settle_of_not_busy {s : State} (h : s.busy = false) {o : OutCh} (ho : o ∈ s.out) : o.settle = false := by
  simp only [State.busy, List.any_eq_false, Bool.not_eq_true] at h
  exact h o ho

/-- A record that a command on channel `ch` left settling is that channel's own: before it nothing settled. -/
theorem eq_of_set_settle {s : State} (hb : s.busy = false) {n i : Nat} {p o : OutCh} (hi : (s.out.set n p)[i]? = some o)
    (ho : o.settle = true) : i = n ∧ o = p := by
  by_cases hne : n = i
  · subst hne
    obtain ⟨hlt, -⟩ := List.getElem?_eq_some_iff.1 hi
    rw [List.length_set] at hlt
    rw [List.getElem?_set_self hlt] at hi
    exact ⟨rfl, (Option.some.inj hi).symm⟩
  · rw [List.getElem?_set_ne hne] at hi
    rw [not_settle_of_not_busy hb (List.mem_of_getElem? hi)] at ho
    cases ho

theorem inv_onOut {s : State} (hs : s.Inv) (hb : s.busy = false) {ch : Chan} (hc : s.cfg.HasChannel .out ch)
    {f : ChanRun → ChanRun} (hf : OutProc s ch f) : (s.onOut ch f).Inv := by
  have hmem : s.outAt ch ∈ s.out := s.outAt_mem (hs.out_lt hc)
  have hset : (s.outAt ch).settle = false := not_settle_of_not_busy hb hmem
  refine hs.update_out s.now _ _ (by simp) (fun o ho => ?_) (fun i j o p hi hj ho hp => ?_) (fun o ho hst => ?_)
  · obtain ho | rfl := List.mem_or_eq_of_mem_set ho
    · exact hs.out_inv o ho
    · exact hf.inv (hs.out_inv _ hmem) hset
  · exact (eq_of_set_settle hb hi ho).1.trans (eq_of_set_settle hb hj hp).1.symm
  · obtain ⟨i, hi⟩ := List.mem_iff_getElem?.1 ho
    obtain ⟨-, rfl⟩ := eq_of_set_settle hb hi hst
    rw [hf.settleDl_eq hset hst]
    bv_omega

/-- STOP_ALL leaves no record settling, since none was. -/
theorem inv_stopAll {s : State} (hs : s.Inv) (hb : s.busy = false) : (s.onEveryOut doStop).Inv := by
  have hall : ∀ p ∈ s.out.mapIdx (fun i o => (runAt doStop i o).o), p.Inv ∧ p.settle = false := by
    intro p hp
    obtain ⟨i, hi, rfl⟩ := List.mem_mapIdx.1 hp
    have hset := not_settle_of_not_busy hb (List.getElem_mem hi)
    exact ⟨doStop_inv _ (hs.out_inv _ (List.getElem_mem hi)) hset, by rw [runAt, doStop_o]; exact hset⟩
  refine hs.update_out s.now _ _ (by simp) (fun p hp => (hall p hp).1) (fun i _ o _ hi _ ho _ => ?_) (fun o ho hst => ?_)
  · exact absurd ho (by simp [(hall o (List.mem_of_getElem? hi)).2])
  · exact absurd hst (by simp [(hall o ho).2])

/-- A settle deadline that has not come by the next time unit is one unit nearer (R78). -/
theorem settleDl_nearer {now dl : Time} (hne : now + 1 ≠ dl) (h : 1 ≤ (dl - now).toNat ∧ (dl - now).toNat ≤ 20) :
    1 ≤ (dl - (now + 1)).toNat ∧ (dl - (now + 1)).toNat ≤ 20 := by
  bv_omega

theorem inv_advance {s : State} (hs : s.Inv) : (advance s).Inv := by
  refine hs.update_out (s.now + 1) _ _ (by simp) (fun p hp => ?_) (fun i j o p hi hj ho hp => ?_) (fun p hp hst => ?_)
  · obtain ⟨i, hi, rfl⟩ := List.mem_mapIdx.1 hp
    exact channelTick_inv _ _ _ (hs.out_inv _ (List.getElem_mem hi))
  · rw [List.getElem?_mapIdx, Option.map_eq_some_iff] at hi hj
    obtain ⟨oi, hi, rfl⟩ := hi
    obtain ⟨oj, hj, rfl⟩ := hj
    exact hs.one_settle i j oi oj hi hj (channelTick_settle ho).1 (channelTick_settle hp).1
  · obtain ⟨i, hi, rfl⟩ := List.mem_mapIdx.1 hp
    obtain ⟨hold, hne, hdl⟩ := channelTick_settle hst
    have hsoon := settleDl_nearer hne (hs.settle_soon _ (List.getElem_mem hi) hold)
    rw [← hdl] at hsoon
    exact hsoon

/-- R29: a running pulse has a period, so a time step does not stop. -/
theorem timeStep_of_inv {s : State} (hs : s.Inv) : timeStep s = .next (advance s) := by
  refine timeStep_of_periods fun o ho he h0 => ?_
  have hpos := (hs.out_inv o ho).pulse_pos he
  have hsum := (hs.out_inv o ho).pperiod_eq
  have hz : o.pperiod.toNat = 0 := by rw [h0]; rfl
  omega

/-! Input and touch channels. -/

theorem Slot.set_inv (tok : Token) : (Slot.set tok).Inv := fun h => absurd h (by simp [Slot.set])

theorem InCh.reset_inv : InCh.reset.Inv :=
  ⟨fun _ => rfl, fun _ => rfl, fun _ => rfl, fun _ => rfl, fun h => absurd h (by decide), fun _ => ⟨rfl, rfl⟩⟩

theorem TouchCh.reset_inv : TouchCh.reset.Inv := ⟨fun _ => rfl, fun _ => rfl, fun _ => rfl⟩

theorem OutCh.reset_inv : OutCh.reset.Inv := by constructor <;> decide

@[simp] theorem InCh.install_subscribed (c : InCh) (db : Word) : (c.install db).subscribed = true := by
  unfold InCh.install
  split
  · assumption
  · rfl

/-- Installing changes SUBSCRIBED and MIN_INTERVAL only (R103). -/
theorem InCh.install_eq (c : InCh) (db : Word) :
    c.install db = { c with subscribed := true, minInterval := (c.install db).minInterval } := by
  unfold InCh.install
  split
  · next h => rw [← h]
  · rfl

/-- A registration subscribes the channel, so only its slots are in question, and it fills one. -/
theorem InSlotWrite.install_inv {tok : Token} {set : InCh → InCh} (h : InSlotWrite tok set) {c : InCh} (hc : c.Inv)
    (db : Word) : ((set c).install db).Inv := by
  rw [InCh.install_eq]
  cases h with
  | high =>
    exact
      { hc with
        high := Slot.set_inv tok, idle := fun h => absurd h (by simp), slot_of_subscribed := fun _ => .inl rfl }
  | low =>
    exact
      { hc with
        low := Slot.set_inv tok, idle := fun h => absurd h (by simp), slot_of_subscribed := fun _ => .inr (.inl rfl) }
  | changed =>
    exact
      { hc with
        changed := Slot.set_inv tok, idle := fun h => absurd h (by simp)
        slot_of_subscribed := fun _ => .inr (.inr rfl) }

theorem TouchSlotWrite.inv {tok : Token} {set : TouchCh → TouchCh} (h : TouchSlotWrite tok set) {t : TouchCh} (ht : t.Inv) :
    (set t).Inv := by
  cases h with
  | press => exact { ht with press := Slot.set_inv tok }
  | release => exact { ht with release := Slot.set_inv tok }
  | held => exact { ht with held := Slot.set_inv tok }

theorem inv_setIn {s : State} (hs : s.Inv) (ch : Chan) {c : InCh} (hc : c.Inv) : (s.setIn ch c).Inv :=
  { hs with
    inp_length := by simpa using hs.inp_length
    inp_inv := fun d hd => (List.mem_or_eq_of_mem_set hd).elim (hs.inp_inv d) (fun e => e ▸ hc) }

theorem inv_setTouch {s : State} (hs : s.Inv) (ch : Chan) {t : TouchCh} (ht : t.Inv) : (s.setTouch ch t).Inv :=
  { hs with
    touch_length := by simpa using hs.touch_length
    touch_inv := fun d hd => (List.mem_or_eq_of_mem_set hd).elim (hs.touch_inv d) (fun e => e ▸ ht) }

theorem inAt_inv {s : State} (hs : s.Inv) (ch : Chan) : (s.inAt ch).Inv := by
  by_cases h : ch.toNat < s.inp.length
  · exact hs.inp_inv _ (s.inAt_mem h)
  · rw [State.inAt_eq, List.getElem?_eq_none (Nat.le_of_not_lt h)]
    exact InCh.reset_inv

theorem touchAt_inv {s : State} (hs : s.Inv) (ch : Chan) : (s.touchAt ch).Inv := by
  by_cases h : ch.toNat < s.touch.length
  · exact hs.touch_inv _ (s.touchAt_mem h)
  · rw [State.touchAt_eq, List.getElem?_eq_none (Nat.le_of_not_lt h)]
    exact TouchCh.reset_inv

/-! Commands. -/

theorem inv_raise {s : State} (hs : s.Inv) {code : ErrCode} (h : code ≠ .none) : (s.raise code).Inv :=
  { hs with
    err_iff := by
      cases he : s.err
      · simp [he, h]
      · simpa [he] using hs.err_iff }

theorem CmdEffect.inv {s t : State} (h : CmdEffect s t) (hs : s.Inv) : t.Inv := by
  cases h with
  | nop => exact hs
  | refused code h => exact inv_raise hs h
  | out ch f hb hc hf => exact inv_onOut hs hb hc hf
  | stopAll hb => exact inv_stopAll hs hb
  | register ch tok set hc hset =>
    exact (inv_setIn hs ch (hset.install_inv (inAt_inv hs ch) _)).of_sameCore rfl
  | clear ch hc => exact (inv_setIn hs ch InCh.reset_inv).of_sameCore rfl
  | registerTouch ch tok set hset => exact inv_setTouch hs ch (hset.inv (touchAt_inv hs ch))

end Sys2Proof.Machine

/-! ### Fields of words (R8) -/

namespace Sys2Proof

@[simp] theorem getElem_place {n m : Nat} (lo i : Nat) (v : BitVec n) (h : i < m) :
    (place lo v : BitVec m)[i] = (decide (lo ≤ i) && v.getLsbD (i - lo)) := by
  rw [← BitVec.getLsbD_eq_getElem, getLsbD_place, decide_eq_true h, Bool.true_and]

/-- A field reads back from its place. -/
@[simp] theorem extractLsb'_place_same {n m : Nat} (lo : Nat) (v : BitVec n) (h : lo + n ≤ m) :
    (place lo v : BitVec m).extractLsb' lo n = v := by
  apply BitVec.eq_of_getLsbD_eq
  intro i hi
  rw [BitVec.getLsbD_extractLsb', getLsbD_place]
  simp [hi, show lo + i < m by omega]

/-- A field is zero everywhere but in its place. -/
@[simp] theorem extractLsb'_place_apart {n m : Nat} (lo a k : Nat) (v : BitVec n) (h : a + k ≤ lo ∨ lo + n ≤ a) :
    (place lo v : BitVec m).extractLsb' a k = 0#k := by
  apply BitVec.eq_of_getLsbD_eq
  intro i hi
  rw [BitVec.getLsbD_extractLsb', getLsbD_place]
  rcases h with h | h
  · simp [show ¬ lo ≤ a + i by omega]
  · simp [BitVec.getLsbD_of_ge v (a + i - lo) (by omega)]

end Sys2Proof

namespace Sys2Proof.Machine

/-! ### Event records (R124, R125) -/

/-- An event record reads back as R124 lays it out. -/
theorem evrec_fields (tok : Token) (src : EvSrc) (ch : Chan) (ev : BitVec 4) (lvl : Bool) :
    recTok (evrec tok src ch ev lvl) = tok ∧ recSrc (evrec tok src ch ev lvl) = src.code ∧
      recCh (evrec tok src ch ev lvl) = ch ∧ recEv (evrec tok src ch ev lvl) = ev ∧
      (evrec tok src ch ev lvl).extractLsb' 1 3 = 0 ∧ recLvl (evrec tok src ch ev lvl) = lvl := by
  refine ⟨?_, ?_, ?_, ?_, ?_, ?_⟩ <;>
    simp [recTok, recSrc, recCh, recEv, recLvl, evrec, BitVec.extractLsb'_or]

/-- The record of an edge on a channel of the build, if its level agrees with its slot. -/
theorem recordOk_inp {c : Params} {ch : Chan} (hc : c.HasChannel .inp ch) (tok : Token) {ev : BitVec 4} {lvl : Bool}
    (hev : ev.toNat ≤ 2) (hhigh : ev = EV_HIGH → lvl = true) (hlow : ev = EV_LOW → lvl = false) :
    RecordOk c (evrec tok .inp ch ev lvl) := by
  obtain ⟨-, hs, hch, he, hz, hl⟩ := evrec_fields tok .inp ch ev lvl
  exact ⟨hz, by rwa [he], .inl ⟨hs, by rwa [hch], by rwa [he, hl], by rwa [he, hl]⟩⟩

/-- The record of a touch event on a channel of the build. -/
theorem recordOk_touch {c : Params} {ch : Chan} (hc : c.HasChannel .touch ch) (tok : Token) {ev : BitVec 4}
    (hev : ev.toNat ≤ 2) : RecordOk c (evrec tok .touch ch ev false) := by
  obtain ⟨-, hs, hch, he, hz, hl⟩ := evrec_fields tok .touch ch ev false
  exact ⟨hz, by rwa [he], .inr ⟨hs, by rwa [hch], hl⟩⟩

theorem inv_push {s : State} (hs : s.Inv) {r : Word} (hr : RecordOk s.cfg r) : (s.push r).Inv := by
  obtain ⟨hroom, e⟩ | ⟨-, e⟩ := push_cases s r <;> rw [e]
  · exact
      { hs with
        evq_length := by simpa using hroom
        evq_ok := fun q hq => by
          obtain hq | hq := List.mem_append.1 hq
          · exact hs.evq_ok q hq
          · rw [List.mem_singleton.1 hq]; exact hr }
  · exact hs.of_sameCore rfl

theorem inv_pushIf {s : State} (hs : s.Inv) {v : Bool} {r : Word} (hr : v = true → RecordOk s.cfg r) : (s.pushIf v r).Inv := by
  cases v with
  | false => exact hs
  | true => exact inv_push hs (hr rfl)

@[simp] theorem pushIf_cfg (s : State) (v : Bool) (r : Word) : (s.pushIf v r).cfg = s.cfg := by
  cases v with
  | false => rfl
  | true => rw [State.pushIf, if_pos rfl, push_frame]

/-- Pushing appends at most, and takes nothing from EVQ (R125). -/
theorem evq_prefix_pushIf (s : State) (v : Bool) (r : Word) : s.evq <+: (s.pushIf v r).evq := by
  cases v with
  | false => exact List.prefix_refl _
  | true =>
    rw [State.pushIf, if_pos rfl]
    obtain ⟨-, e⟩ | ⟨-, e⟩ := push_cases s r <;> rw [e]
    exact List.prefix_append _ _

theorem inv_pushEdge {s : State} (hs : s.Inv) {ch : Chan} (hc : s.cfg.HasChannel .inp ch) (c : InCh) (lvl : Bool) :
    (pushEdge ch c lvl s).Inv := by
  unfold pushEdge
  refine inv_pushIf (inv_pushIf (inv_pushIf hs fun _ => ?_) fun _ => ?_) fun _ => ?_
  · exact recordOk_inp hc _ (by decide) (fun _ => rfl) (fun h => absurd h (by decide))
  · rw [pushIf_cfg]
    exact recordOk_inp hc _ (by decide) (fun h => absurd h (by decide)) (fun _ => rfl)
  · rw [pushIf_cfg, pushIf_cfg]
    exact recordOk_inp hc _ (by decide) (fun h => absurd h (by decide)) (fun h => absurd h (by decide))

theorem evq_prefix_pushEdge (ch : Chan) (c : InCh) (lvl : Bool) (s : State) : s.evq <+: (pushEdge ch c lvl s).evq := by
  unfold pushEdge
  exact ((evq_prefix_pushIf ..).trans (evq_prefix_pushIf ..)).trans (evq_prefix_pushIf ..)

theorem inv_pushTouch {s : State} (hs : s.Inv) {ch : Chan} (hc : s.cfg.HasChannel .touch ch) (t : TouchCh) (ev : TouchEvent) :
    (pushTouch ch t ev s).Inv := by
  cases ev with
  | press => exact inv_pushIf hs fun _ => recordOk_touch hc _ (by decide)
  | release => exact inv_pushIf hs fun _ => recordOk_touch hc _ (by decide)
  | held => exact inv_pushIf hs fun _ => recordOk_touch hc _ (by decide)
  | none => exact hs

theorem evq_prefix_pushTouch (ch : Chan) (t : TouchCh) (ev : TouchEvent) (s : State) : s.evq <+: (pushTouch ch t ev s).evq := by
  cases ev with
  | press => exact evq_prefix_pushIf ..
  | release => exact evq_prefix_pushIf ..
  | held => exact evq_prefix_pushIf ..
  | none => exact List.prefix_refl _

/-! ### The dispatches (R109, R115) -/

/-- Everything an edge can do: it is accepted on a subscribed channel of the build, or dropped. -/
theorem edge_cases (ch : Chan) (lvl : Bool) (s : State) :
    (s.cfg.HasChannel .inp ch ∧ (s.inAt ch).subscribed = true ∧
        edge ch lvl s = pushEdge ch (s.inAt ch) lvl (s.setIn ch ((s.inAt ch).record s.now lvl))) ∨
      edge ch lvl s = s := by
  by_cases h : s.cfg.HasChannel .inp ch ∧ (s.inAt ch).subscribed = true ∧ (s.inAt ch).Accepts s.now
  · exact .inl ⟨h.1, h.2.1, if_pos h⟩
  · exact .inr (if_neg h)

/-- Everything a touch event can do: it updates the pad, then pushes, or it is for no channel of the build. -/
theorem touchEvent_cases (ch : Chan) (ev : TouchEvent) (s : State) :
    (s.cfg.HasChannel .touch ch ∧
        touchEvent ch ev s = pushTouch ch (s.touchAt ch) ev (s.setTouch ch ((s.touchAt ch).after ev))) ∨
      touchEvent ch ev s = s := by
  by_cases h : s.cfg.HasChannel .touch ch
  · exact .inl ⟨h, if_pos h⟩
  · exact .inr (if_neg h)

/-- An accepted edge leaves a subscribed channel's slots alone. -/
theorem InCh.Inv.record {c : InCh} (hc : c.Inv) (h : c.subscribed = true) (now : Time) (lvl : Bool) :
    (c.record now lvl).Inv :=
  { hc with
    idle := fun hn => absurd (h.symm.trans hn) (by decide)
    fresh := fun hn => absurd hn (by simp [InCh.record]) }

theorem TouchCh.Inv.after {t : TouchCh} (ht : t.Inv) (ev : TouchEvent) : (t.after ev).Inv := by
  cases ev <;> exact { ht with }

theorem inv_edge {s : State} (hs : s.Inv) (ch : Chan) (lvl : Bool) : (edge ch lvl s).Inv := by
  obtain ⟨hc, hsub, e⟩ | e := edge_cases ch lvl s <;> rw [e]
  · exact inv_pushEdge (inv_setIn hs ch ((inAt_inv hs ch).record hsub s.now lvl)) hc _ _
  · exact hs

theorem inv_touchEvent {s : State} (hs : s.Inv) (ch : Chan) (ev : TouchEvent) : (touchEvent ch ev s).Inv := by
  obtain ⟨hc, e⟩ | e := touchEvent_cases ch ev s <;> rw [e]
  · exact inv_pushTouch (inv_setTouch hs ch ((touchAt_inv hs ch).after ev)) hc _ _
  · exact hs

/-- An edge takes no record from EVQ (R125). -/
theorem evq_prefix_edge (ch : Chan) (lvl : Bool) (s : State) : s.evq <+: (edge ch lvl s).evq := by
  obtain ⟨-, -, e⟩ | e := edge_cases ch lvl s <;> rw [e]
  exact evq_prefix_pushEdge ch _ lvl (s.setIn ch _)

/-- A touch event takes no record from EVQ (R125). -/
theorem evq_prefix_touchEvent (ch : Chan) (ev : TouchEvent) (s : State) : s.evq <+: (touchEvent ch ev s).evq := by
  obtain ⟨-, e⟩ | e := touchEvent_cases ch ev s <;> rw [e]
  exact evq_prefix_pushTouch ch _ ev (s.setTouch ch _)

/-! ### Host accesses -/

theorem inv_readAt {s : State} (hs : s.Inv) (off : BitVec 12) : (readAt off s).Inv := by
  obtain ⟨-, e⟩ | ⟨-, e⟩ | ⟨-, -, e⟩ := readAt_cases off s <;> rw [e]
  · exact
      { hs with
        evq_length := (List.length_tail ▸ Nat.sub_le _ 1).trans hs.evq_length
        evq_ok := fun r hr => hs.evq_ok r (List.mem_of_mem_tail hr) }
  · exact hs.of_sameCore rfl
  · exact hs

theorem inv_writeStatus {s : State} (hs : s.Inv) (w : Word) : (writeStatus s w).Inv := by
  have herr := hs.err_iff
  rw [writeStatus_eq]
  refine { hs with err_iff := ?_ }
  cases w.getLsbD 1
  · simpa using herr
  · simp

theorem inv_setArg {s : State} (hs : s.Inv) (i : Fin 4) (w : Word) : (s.setArg i w).Inv := by
  unfold State.setArg
  split <;> exact hs.of_sameCore rfl

theorem inv_writeAt {s t : State} (hs : s.Inv) {off : BitVec 12} {w : Word} (h : writeAt off w s = .next t) : t.Inv := by
  obtain ⟨-, e⟩ | ⟨-, e⟩ | ⟨-, e⟩ | ⟨i, -, e⟩ | e := writeAt_cases off w s <;> rw [e] at h
  · exact (cmdWrite_cases h).inv hs
  · cases h; exact inv_writeStatus hs w
  · cases h; exact hs.of_sameCore rfl
  · cases h; exact inv_setArg hs i w
  · cases h; exact hs

/-- Every accepted write answers a next state (R118). -/
theorem writeAt_next (off : BitVec 12) (w : Word) (s : State) : ∃ t, writeAt off w s = .next t := by
  obtain ⟨-, e⟩ | ⟨-, e⟩ | ⟨-, e⟩ | ⟨i, -, e⟩ | e := writeAt_cases off w s <;> rw [e]
  · obtain ⟨t, ht, -⟩ := cmdWrite_frame w s
    exact ⟨t, ht⟩
  all_goals exact ⟨_, rfl⟩

/-! ### The invariant of the machine -/

theorem inv_resetOf {cfg : Params} (h : cfg.Legal) : (State.resetOf cfg).Inv where
  legal := h
  out_length := List.length_replicate
  inp_length := List.length_replicate
  touch_length := List.length_replicate
  evq_length := Nat.zero_le _
  err_iff := by simp [State.resetOf]
  out_inv := fun o ho => List.eq_of_mem_replicate ho ▸ OutCh.reset_inv
  inp_inv := fun c hc => List.eq_of_mem_replicate hc ▸ InCh.reset_inv
  touch_inv := fun t ht => List.eq_of_mem_replicate ht ▸ TouchCh.reset_inv
  evq_ok := fun r hr => absurd hr List.not_mem_nil
  one_settle := fun i j o p hi hj ho hp => by
    rw [List.eq_of_mem_replicate (List.mem_of_getElem? hi)] at ho
    cases ho
  settle_soon := fun o ho hst => by
    rw [List.eq_of_mem_replicate ho] at hst
    cases hst

/-- Settles O57: after reset every record is a reset record and EVQ is empty. -/
theorem resetMeetsTheInvariant : Obligations.ResetMeetsTheInvariant :=
  ⟨inv_resetOf (by decide), fun _ _ h => (inv_resetOf h).of_sameCore rfl⟩

/-- A transition from a state that meets the invariant answers a next state, which meets it. -/
theorem inv_transition {s : State} (hs : s.Inv) (a : Transition) : ∃ t : State, transition a s = .next t ∧ t.Inv := by
  cases a with
  | read off width =>
    obtain ⟨-, e⟩ | ⟨-, e⟩ := hostRead_cases off width s
    · exact ⟨_, e, hs.of_sameCore rfl⟩
    · exact ⟨_, e, (inv_readAt hs off).of_sameCore rfl⟩
  | write off width w =>
    obtain ⟨-, e⟩ | ⟨-, e⟩ := hostWrite_cases off width w s
    · exact ⟨_, e, hs.of_sameCore rfl⟩
    · obtain ⟨t, ht⟩ := writeAt_next off w { s with resp := .done }
      exact ⟨t, e.trans ht, inv_writeAt (hs.of_sameCore (t := { s with resp := .done }) rfl) ht⟩
  | timeStep => exact ⟨_, timeStep_of_inv hs, inv_advance hs⟩
  | edge ch lvl => exact ⟨_, rfl, inv_edge hs ch lvl⟩
  | touch ch ev => exact ⟨_, rfl, inv_touchEvent hs ch ev⟩
  | reset => exact ⟨_, rfl, (inv_resetOf hs.legal).of_sameCore rfl⟩

/-- Settles O58: a step is a transition, and each kind keeps the invariant. -/
theorem everyStepKeepsTheInvariant : Obligations.EveryStepKeepsTheInvariant :=
  fun s hs => inv_transition (s := takeScheduled s) (hs.of_sameCore rfl) (nextTransition s)

/-- Reset meets the invariant and every step keeps it, so every reachable state meets it. -/
theorem Reachable.inv {s : State} (h : Reachable s) : s.Inv := by
  induction h with
  | reset cfg l h => exact (inv_resetOf h).of_sameCore rfl
  | step s t _ hstep ih =>
    obtain ⟨u, hu, hinv⟩ := everyStepKeepsTheInvariant s ih
    cases hu.symm.trans hstep
    exact hinv

/-- Settles O59: R32 is part of the invariant of every channel's record. -/
theorem effectAndEngineAgreeInEveryReachableState : Obligations.EffectAndEngineAgreeInEveryReachableState := by
  intro s ch hs hc
  have ho := hs.inv.out_inv _ (s.outAt_mem (hs.inv.out_lt hc))
  exact ⟨ho.pulse_iff, ho.fade_fading, ho.settle_writing⟩

end Sys2Proof.Machine

/-! ### What the pins have been told (R23 to R26, R33) -/

namespace Sys2Proof.Machine

/-- The pin's view of `v`, moved on by what the work has emitted, is what the record says. -/
def ChanRun.Tracks (v : PinView) (r : ChanRun) : Prop := r.o.view = r.ops.foldl PinView.apply v

theorem ChanRun.start_tracks (o : OutCh) : (ChanRun.start o).Tracks o.view := rfl

@[simp] theorem foldl_teardownOps (ch : Chan) (o : OutCh) (v : PinView) :
    (teardownOps ch o).foldl PinView.apply v = { v with duty := if o.engine = .pulse then 0 else v.duty } := by
  by_cases h : o.engine = .pulse <;> simp [teardownOps, h, PinView.apply]

/-- The carrier's operations make the PWM run at the carrier period, from duty 0 if it did not run (R83). -/
theorem foldl_carrierOps {ch : Chan} {o : OutCh} {v : PinView} (carrier : Word) (hp : v.period = o.period)
    (hw : v.pwm = o.blinking) :
    (carrierOps carrier ch o).foldl PinView.apply v =
      { v with period := carrier, duty := if o.blinking then v.duty else 0, pwm := true } := by
  obtain ⟨level, duty, period, pwm⟩ := v
  obtain rfl : period = o.period := hp
  obtain rfl : pwm = o.blinking := hw
  cases hb : o.blinking
  · simp [carrierOps, hb, PinView.apply]
  · by_cases hc : o.period = carrier
    · simp [carrierOps, hb, hc]
    · simp [carrierOps, hb, hc, PinView.apply]

/-- The operations that each command's procedure emits say of the pin what the record says. -/
theorem OutProc.tracks {s : State} {ch : Chan} {f : ChanRun → ChanRun} (hf : OutProc s ch f) (o : OutCh) :
    (f (ChanRun.start o)).Tracks o.view := by
  have hcarrier : (carrierOps s.cfg.carrierPeriod ch o).foldl PinView.apply
      { o.view with duty := if o.engine = .pulse then 0 else o.view.duty } = _ := foldl_carrierOps _ rfl rfl
  unfold ChanRun.Tracks
  cases hf with
  | write v =>
    rw [doWrite_o, doWrite_ops]
    split <;> simp only [ChanRun.start_o, ChanRun.start_ops, List.nil_append, List.foldl_append, foldl_teardownOps] <;> rfl
  | blink on off h =>
    rw [doBlink_o, doBlink_ops]
    split <;> simp only [ChanRun.start_o, ChanRun.start_ops, List.nil_append, List.foldl_append, foldl_teardownOps]
    · have hw : o.view.pwm = true := ‹(ChanRun.start o).o.blinking = true›
      rw [hw]
      rfl
    · rfl
  | pulse p hd hp =>
    rw [startPulse_ops, startPulse_o]
    simp only [ChanRun.start_o, ChanRun.start_ops, List.nil_append, List.foldl_append, foldl_teardownOps, hcarrier]
    rfl
  | fade a b d ha hb =>
    rw [startFade_ops, startFade_o]
    simp only [ChanRun.start_o, ChanRun.start_ops, List.nil_append, List.foldl_append, foldl_teardownOps, hcarrier]
    rfl
  | stop =>
    rw [doStop_o, doStop_ops]
    simp only [ChanRun.start_o, ChanRun.start_ops, List.nil_append, List.foldl_append, foldl_teardownOps]
    rfl

theorem OutProc.toLocal {s : State} {ch : Chan} {f : ChanRun → ChanRun} (hf : OutProc s ch f) : Local ch f := by
  cases hf with
  | write v => exact local_doWrite s.now ch v
  | blink on off h => exact local_doBlink s.cfg.rounding on off ch
  | pulse p hd hp => exact local_startPulse s.cfg s.now p ch
  | fade a b d ha hb => exact local_startFade s.cfg s.now a b d ch
  | stop => exact local_doStop ch

theorem settleExpiry_tracks (now : Time) (ch : Chan) {v : PinView} {r : ChanRun} (h : r.Tracks v) :
    (settleExpiry now ch r).Tracks v := by
  by_cases hd : r.o.settle = true ∧ now = r.o.settleDl
  · rw [settleExpiry_due ch hd, ChanRun.Tracks, List.foldl_append, ← h]
    rfl
  · rwa [settleExpiry_not_due ch hd]

theorem pulseEval_tracks (rd : Rounding) (now : Time) (ch : Chan) {v : PinView} {r : ChanRun} (h : r.Tracks v) :
    (pulseEval rd now ch r).Tracks v := by
  rw [ChanRun.Tracks, pulseEval_ops, List.foldl_append, ← h]
  rfl

theorem fadeEval_tracks (rd : Rounding) (now : Time) (ch : Chan) {v : PinView} {r : ChanRun} (h : r.Tracks v) :
    (fadeEval rd now ch r).Tracks v := by
  rw [ChanRun.Tracks, fadeEval_ops, List.foldl_append, ← h, fadeEval_o]
  rfl

theorem engineTick_tracks (rd : Rounding) (now : Time) (ch : Chan) {v : PinView} {r : ChanRun} (h : r.Tracks v) :
    (engineTick rd now ch r).Tracks v := by
  unfold engineTick
  split
  · split
    · exact pulseEval_tracks rd now ch h
    · exact h
  · split
    · exact fadeEval_tracks rd now ch h
    · exact h
  · exact h

theorem channelTick_tracks (rd : Rounding) (now : Time) (ch : Chan) (o : OutCh) :
    (channelTick rd now ch (ChanRun.start o)).Tracks o.view :=
  engineTick_tracks rd now ch (settleExpiry_tracks now ch (ChanRun.start_tracks o))

/-! What is emitted for the other kind of channel. -/

theorem inOps_stamp_of_out {l : List PinOp} (h : ∀ op ∈ l, op.kind.toNat ≤ 4) (now : Time) (ch : Chan) :
    inOps ch (stamp now l) = [] := by
  rw [inOps_stamp]
  refine List.filter_eq_nil_iff.2 fun op ho hin => ?_
  have hout := h op ho
  have hkind := (of_decide_eq_true hin).2
  omega

theorem inOps_onOut (s : State) {k : Chan} {f : ChanRun → ChanRun} (hf : Local k f) (ch : Chan) :
    inOps ch (emitted s (s.onOut k f)) = [] := by
  rw [onOut_emitted]
  exact inOps_stamp_of_out (fun op ho => (hf.onChannel_start _ op ho).2) _ _

theorem inOps_onEveryOut (s : State) {f : Chan → ChanRun → ChanRun} (hf : ∀ ch, Local ch (f ch)) (ch : Chan) :
    inOps ch (emitted s (s.onEveryOut f)) = [] := by
  rw [onEveryOut_emitted]
  refine inOps_stamp_of_out (fun op ho => ?_) _ _
  obtain ⟨l, hl, hop⟩ := List.mem_flatten.1 ho
  obtain ⟨i, hi, rfl⟩ := List.mem_mapIdx.1 hl
  exact ((hf _).onChannel_start _ op hop).2

theorem outOps_installOps (ch k : Chan) (now : Time) (c : InCh) (db : Word) :
    outOps ch (stamp now (installOps k c db)) = [] := by
  rw [outOps_stamp, installOps]
  split <;> simp [PinOp.kind]

theorem outOps_clearOps (ch k : Chan) (now : Time) (c : InCh) : outOps ch (stamp now (clearOps k c)) = [] := by
  rw [outOps_stamp, clearOps]
  split <;> simp [PinOp.kind]

/-! The step, for one output channel. -/

/-- From `s` to `t`, the record of channel `ch` moved as the operations emitted for it. -/
def PinsTrack (s t : State) (ch : Chan) : Prop :=
  (t.outAt ch).view = (outOps ch (emitted s t)).foldl PinView.apply (s.outAt ch).view

theorem pinsTrack_of_quiet {s t : State} {ch : Chan} (ho : t.out = s.out) (hp : outOps ch (emitted s t) = []) :
    PinsTrack s t ch := by
  rw [PinsTrack, hp, State.outAt, ho]
  rfl

theorem pinsTrack_onOut {s : State} {k : Chan} {f : ChanRun → ChanRun} (hf : OutProc s k f) {ch : Chan}
    (hc : ch.toNat < s.out.length) : PinsTrack s (s.onOut k f) ch := by
  by_cases hk : ch = k
  · subst hk
    rw [PinsTrack, onOut_outOps_self s hf.toLocal, State.onOut_outAt_self s f hc]
    exact hf.tracks (s.outAt ch)
  · rw [PinsTrack, onOut_outOps_other s hf.toLocal (Ne.symm hk), State.onOut_outAt_ne s f hk]
    rfl

theorem pinsTrack_onEveryOut {s : State} {f : Chan → ChanRun → ChanRun} (hl : ∀ ch, Local ch (f ch)) {ch : Chan}
    (ht : ∀ o : OutCh, (f ch (ChanRun.start o)).Tracks o.view) (hc : ch.toNat < s.out.length) (hn : s.out.length ≤ 16) :
    PinsTrack s (s.onEveryOut f) ch := by
  obtain ⟨o, ho⟩ : ∃ o, s.out[ch.toNat]? = some o := ⟨_, List.getElem?_eq_getElem hc⟩
  rw [PinsTrack, onEveryOut_outOps s hl ch hn, onEveryOut_outAt s f ho, s.outAt_of_getElem? ho, ho]
  exact ht o

theorem State.Inv.out_length_le {s : State} (hs : s.Inv) : s.out.length ≤ 16 :=
  hs.out_length ▸ hs.legal.1.2

theorem CmdEffect.pinsTrack {s t : State} (h : CmdEffect s t) (hs : s.Inv) {ch : Chan} (hc : s.cfg.HasChannel .out ch) :
    PinsTrack s t ch := by
  cases h with
  | nop => exact pinsTrack_of_quiet rfl (by simp)
  | refused code _ => exact pinsTrack_of_quiet rfl (by simp [emitted])
  | out k f _ _ hf => exact pinsTrack_onOut hf (hs.out_lt hc)
  | stopAll _ =>
    exact pinsTrack_onEveryOut local_doStop (OutProc.stop (s := s)).tracks (hs.out_lt hc) hs.out_length_le
  | register k tok set _ _ => exact pinsTrack_of_quiet rfl (by rw [emitted_of_port rfl]; exact outOps_installOps ..)
  | clear k _ => exact pinsTrack_of_quiet rfl (by rw [emitted_of_port rfl]; exact outOps_clearOps ..)
  | registerTouch k tok set _ => exact pinsTrack_of_quiet rfl (by simp [emitted, registerHandler])

theorem pinsTrack_advance {s : State} (hs : s.Inv) {ch : Chan} (hc : s.cfg.HasChannel .out ch) : PinsTrack s (advance s) ch :=
  pinsTrack_onEveryOut (s := { s with now := s.now + 1 }) (local_channelTick _ _) (channelTick_tracks _ _ ch) (hs.out_lt hc)
    hs.out_length_le

/-- What a step but reset does to the channels and to the port: nothing, or it is a command, a time step or an edge. -/
theorem step_pin_cases {s t : State} (h : step s = .next t) (hr : nextTransition s ≠ .reset) :
    (t.out = s.out ∧ t.inp = s.inp ∧ t.port = s.port) ∨ CmdEffect { takeScheduled s with resp := .done } t ∨
      t = advance (takeScheduled s) ∨ ∃ ch lvl, t = edge ch lvl (takeScheduled s) := by
  obtain ⟨off, width, -, ⟨-, rfl⟩ | ⟨-, rfl⟩⟩ | ⟨off, width, w, -, ⟨-, rfl⟩ | ⟨-, hw⟩⟩ | ⟨-, rfl⟩ | ⟨ch, lvl, -, rfl⟩ |
    ⟨ch, ev, -, rfl⟩ | ⟨hn, -⟩ := step_cases h
  · exact .inl ⟨rfl, rfl, rfl⟩
  · obtain ⟨-, e⟩ | ⟨-, e⟩ | ⟨-, -, e⟩ := readAt_cases off (takeScheduled s) <;> rw [e] <;> exact .inl ⟨rfl, rfl, rfl⟩
  · exact .inl ⟨rfl, rfl, rfl⟩
  · obtain ⟨-, e⟩ | ⟨-, e⟩ | ⟨-, e⟩ | ⟨i, -, e⟩ | e := writeAt_cases off w { takeScheduled s with resp := .done } <;>
      rw [e] at hw
    · exact .inr (.inl (cmdWrite_cases hw))
    · cases hw
      rw [writeStatus_eq]
      exact .inl ⟨rfl, rfl, rfl⟩
    · cases hw; exact .inl ⟨rfl, rfl, rfl⟩
    · cases hw
      unfold State.setArg
      split <;> exact .inl ⟨rfl, rfl, rfl⟩
    · cases hw; exact .inl ⟨rfl, rfl, rfl⟩
  · exact .inr (.inr (.inl rfl))
  · exact .inr (.inr (.inr ⟨ch, lvl, rfl⟩))
  · rw [touchEvent_frame]
    exact .inl ⟨rfl, rfl, rfl⟩
  · exact absurd hn hr

/-- Settles O55: a command and a time step emit what moves the records; every other transition leaves both alone. -/
theorem recordsTrackThePins : Obligations.RecordsTrackThePins := by
  intro s t ch hs h hr hc
  have hs' : (takeScheduled s).Inv := hs.of_sameCore rfl
  obtain ⟨ho, -, hp⟩ | hcmd | rfl | ⟨k, lvl, rfl⟩ := step_pin_cases h hr
  · exact pinsTrack_of_quiet ho (by simp [emitted, hp])
  · exact hcmd.pinsTrack (hs'.of_sameCore rfl) hc
  · exact pinsTrack_advance hs' hc
  · rw [edge_frame]
    exact pinsTrack_of_quiet rfl (by simp [emitted, takeScheduled])

/-! The step, for one input channel. -/

/-- From `s` to `t`, SUBSCRIBED of channel `ch` moved as the subscriptions emitted for it. -/
def SubTracks (s t : State) (ch : Chan) : Prop :=
  (t.inAt ch).subscribed = (inOps ch (emitted s t)).foldl applySub (s.inAt ch).subscribed

theorem subTracks_of_quiet {s t : State} {ch : Chan} (hi : (t.inAt ch).subscribed = (s.inAt ch).subscribed)
    (hp : inOps ch (emitted s t) = []) : SubTracks s t ch := by
  rw [SubTracks, hp, hi]
  rfl

/-- A new record of channel `k` with operations of that channel whose subscriptions add up to its SUBSCRIBED. -/
theorem subTracks_setIn_emit {s : State} {k : Chan} {c : InCh} {ops : List PinOp}
    (hops : ∀ op ∈ ops, op.chan = k ∧ 5 ≤ op.kind.toNat) (hsub : c.subscribed = ops.foldl applySub (s.inAt k).subscribed)
    {ch : Chan} (hc : ch.toNat < s.inp.length) : SubTracks s ((s.setIn k c).emit ops) ch := by
  have hem : emitted s ((s.setIn k c).emit ops) = stamp s.now ops := emitted_of_port rfl
  by_cases hk : ch = k
  · subst hk
    have hin : ((s.setIn ch c).emit ops).inAt ch = c := s.setIn_inAt_self c hc
    rw [SubTracks, hem, inOps_stamp, hin, List.filter_eq_self.2 (fun op ho => by simpa using hops op ho)]
    exact hsub
  · have hin : ((s.setIn k c).emit ops).inAt ch = s.inAt ch := s.setIn_inAt_ne c hk
    refine subTracks_of_quiet (by rw [hin]) ?_
    rw [hem, inOps_stamp]
    exact List.filter_eq_nil_iff.2 fun op ho => by simp [(hops op ho).1, Ne.symm hk]

theorem subTracks_register {s : State} {k : Chan} (set : InCh → InCh) {ch : Chan} (hc : ch.toNat < s.inp.length) :
    SubTracks s (registerSlot k set s) ch := by
  refine subTracks_setIn_emit ?_ ?_ hc
  · unfold installOps
    split <;> simp [PinOp.chan, PinOp.kind]
  · rw [InCh.install_subscribed, installOps]
    split
    · exact (‹(s.inAt k).subscribed = true›).symm
    · rfl

theorem subTracks_clear {s : State} {k ch : Chan} (hc : ch.toNat < s.inp.length) :
    SubTracks s ((s.setIn k InCh.reset).emit (clearOps k (s.inAt k))) ch := by
  refine subTracks_setIn_emit ?_ ?_ hc
  · unfold clearOps
    split <;> simp [PinOp.chan, PinOp.kind]
  · rw [clearOps]
    split
    · rfl
    · exact (Bool.eq_false_of_not_eq_true ‹_›).symm

theorem CmdEffect.subTracks {s t : State} (h : CmdEffect s t) {ch : Chan} (hc : ch.toNat < s.inp.length) :
    SubTracks s t ch := by
  cases h with
  | nop => exact subTracks_of_quiet rfl (by simp)
  | refused code _ => exact subTracks_of_quiet rfl (by simp [emitted])
  | out k f _ _ hf => exact subTracks_of_quiet rfl (inOps_onOut s hf.toLocal ch)
  | stopAll _ => exact subTracks_of_quiet rfl (inOps_onEveryOut s local_doStop ch)
  | register k tok set _ _ => exact subTracks_register set hc
  | clear k _ => exact subTracks_clear hc
  | registerTouch k tok set _ => exact subTracks_of_quiet rfl (by simp [emitted, registerHandler])

theorem subTracks_advance (s : State) (ch : Chan) : SubTracks s (advance s) ch :=
  subTracks_of_quiet rfl (inOps_onEveryOut { s with now := s.now + 1 } (local_channelTick _ _) ch)

@[simp] theorem pushIf_inp (s : State) (v : Bool) (r : Word) : (s.pushIf v r).inp = s.inp := by
  cases v with
  | false => rfl
  | true => rw [State.pushIf, if_pos rfl, push_frame]

theorem pushEdge_inAt (k : Chan) (c : InCh) (lvl : Bool) (s : State) (ch : Chan) :
    (pushEdge k c lvl s).inAt ch = s.inAt ch := by
  simp [pushEdge, State.inAt]

/-- An accepted edge records its time and level, not a subscription (R109). -/
theorem edge_subscribed (k : Chan) (lvl : Bool) {s : State} {ch : Chan} (hc : ch.toNat < s.inp.length) :
    ((edge k lvl s).inAt ch).subscribed = (s.inAt ch).subscribed := by
  obtain ⟨-, -, e⟩ | e := edge_cases k lvl s <;> rw [e]
  rw [pushEdge_inAt]
  by_cases hk : ch = k
  · subst hk
    rw [s.setIn_inAt_self _ hc]
    rfl
  · rw [s.setIn_inAt_ne _ hk]

theorem edge_port (k : Chan) (lvl : Bool) (s : State) : (edge k lvl s).port = s.port := by
  rw [edge_frame]

/-- Settles O56: only the registrations and IN_CLEAR subscribe or unsubscribe, and they say so on the port. -/
theorem subscribedTracksThePort : Obligations.SubscribedTracksThePort := by
  intro s t ch hs h hr hc
  have hlt : ch.toNat < (takeScheduled s).inp.length := hs.inp_lt hc
  obtain ⟨-, hi, hp⟩ | hcmd | rfl | ⟨k, lvl, rfl⟩ := step_pin_cases h hr
  · exact subTracks_of_quiet (by rw [State.inAt, hi]; rfl) (by simp [emitted, hp])
  · exact hcmd.subTracks hlt
  · exact subTracks_advance (takeScheduled s) ch
  · exact subTracks_of_quiet (edge_subscribed k lvl hlt) (by simp [emitted, edge_port, takeScheduled])

end Sys2Proof.Machine

/-! ### What a step leaves of the host's registers (R15, R16, R20) -/

namespace Sys2Proof.Machine

/-- `t` has the schedule, NOW_HI_SNAP, the arguments and the event queue of `s`. -/
def SameHost (s t : State) : Prop :=
  t.schedule = s.schedule ∧ t.nowHiSnap = s.nowHiSnap ∧ (∀ i, t.arg i = s.arg i) ∧ t.evq = s.evq

theorem sameHost_cmdWrite {w : Word} {s t : State} (h : cmdWrite w s = .next t) : SameHost s t := by
  obtain ⟨u, hu, hf, -⟩ := cmdWrite_frame w s
  cases hu.symm.trans h
  rw [hf]
  exact ⟨rfl, rfl, fun _ => rfl, rfl⟩

theorem sameHost_writeStatus (s : State) (w : Word) : SameHost s (writeStatus s w) := by
  rw [writeStatus_eq]
  exact ⟨rfl, rfl, fun _ => rfl, rfl⟩

/-- A write of an argument leaves the rest of the host's registers. -/
theorem setArg_frame (s : State) (i : Fin 4) (w : Word) :
    (s.setArg i w).schedule = s.schedule ∧ (s.setArg i w).nowHiSnap = s.nowHiSnap ∧ (s.setArg i w).evq = s.evq := by
  unfold State.setArg
  split <;> exact ⟨rfl, rfl, rfl⟩

/-- The offset of ARG[i] (R43). -/
def argOffset (i : Fin 4) : BitVec 12 := BitVec.ofNat 12 (0x020 + 4 * i.val)

/-- What a step but reset may change of the schedule, NOW_HI_SNAP, the arguments and EVQ, and by which transition. -/
structure StepFrame (s t : State) : Prop where
  schedule : t.schedule = s.schedule.tail
  snap : nextTransition s ≠ .read 0x038 4 → t.nowHiSnap = s.nowHiSnap
  args : (∀ i w, nextTransition s ≠ .write (argOffset i) 4 w) → ∀ i, t.arg i = s.arg i
  evq : nextTransition s ≠ .read 0x01C 4 → (∀ ch lvl, nextTransition s ≠ .edge ch lvl) →
    (∀ ch ev, nextTransition s ≠ .touch ch ev) → t.evq = s.evq

theorem SameHost.stepFrame {s t : State} (h : SameHost (takeScheduled s) t) : StepFrame s t := by
  obtain ⟨hsched, hsnap, hargs, hevq⟩ := h
  exact ⟨hsched, fun _ => hsnap, fun _ => hargs, fun _ _ _ => hevq⟩

theorem stepFrame_readAt {s : State} {off : BitVec 12} (hn : nextTransition s = .read off 4) (v : Word) :
    StepFrame s { readAt off (takeScheduled s) with resp := .data v } := by
  obtain ⟨rfl, e⟩ | ⟨rfl, e⟩ | ⟨-, -, e⟩ := readAt_cases off (takeScheduled s) <;> rw [e]
  · exact ⟨rfl, fun _ => rfl, fun _ _ => rfl, fun h => absurd hn h⟩
  · exact ⟨rfl, fun h => absurd hn h, fun _ _ => rfl, fun _ _ _ => rfl⟩
  · exact SameHost.stepFrame ⟨rfl, rfl, fun _ => rfl, rfl⟩

theorem stepFrame_writeAt {s t : State} {off : BitVec 12} {w : Word} (hn : nextTransition s = .write off 4 w)
    (h : writeAt off w { takeScheduled s with resp := .done } = .next t) : StepFrame s t := by
  obtain ⟨-, e⟩ | ⟨-, e⟩ | ⟨-, e⟩ | ⟨i, hoff, e⟩ | e := writeAt_cases off w { takeScheduled s with resp := .done } <;>
    rw [e] at h
  · have hsame : SameHost { takeScheduled s with resp := .done } t := sameHost_cmdWrite h
    exact SameHost.stepFrame hsame
  · cases h
    exact SameHost.stepFrame (sameHost_writeStatus { takeScheduled s with resp := .done } w)
  · cases h
    exact SameHost.stepFrame ⟨rfl, rfl, fun _ => rfl, rfl⟩
  · cases h
    obtain ⟨hsched, hsnap, hevq⟩ := setArg_frame { takeScheduled s with resp := .done } i w
    have hi : nextTransition s = .write (argOffset i) 4 w := by rw [hn, offset_eq hoff, argOffset]
    exact ⟨hsched, fun _ => hsnap, fun harg => absurd hi (harg i w), fun _ _ _ => hevq⟩
  · cases h
    exact SameHost.stepFrame ⟨rfl, rfl, fun _ => rfl, rfl⟩

theorem step_frame {s t : State} (h : step s = .next t) (hr : nextTransition s ≠ .reset) : StepFrame s t := by
  obtain ⟨off, width, hn, ⟨-, rfl⟩ | ⟨⟨rfl, -⟩, rfl⟩⟩ | ⟨off, width, w, hn, ⟨-, rfl⟩ | ⟨⟨rfl, -⟩, hw⟩⟩ | ⟨-, rfl⟩ |
    ⟨ch, lvl, hn, rfl⟩ | ⟨ch, ev, hn, rfl⟩ | ⟨hn, -⟩ := step_cases h
  · exact SameHost.stepFrame ⟨rfl, rfl, fun _ => rfl, rfl⟩
  · exact stepFrame_readAt hn _
  · exact SameHost.stepFrame ⟨rfl, rfl, fun _ => rfl, rfl⟩
  · exact stepFrame_writeAt hn hw
  · exact SameHost.stepFrame ⟨rfl, rfl, fun _ => rfl, rfl⟩
  · rw [edge_frame]
    exact ⟨rfl, fun _ => rfl, fun _ _ => rfl, fun _ hedge => absurd hn (hedge ch lvl)⟩
  · rw [touchEvent_frame]
    exact ⟨rfl, fun _ => rfl, fun _ _ => rfl, fun _ _ htouch => absurd hn (htouch ch ev)⟩
  · exact absurd hn hr

/-- Settles O52: of all steps but reset, `step_frame` lets only a write at an argument's offset change the arguments. -/
theorem onlyTheHostChangesArguments : Obligations.OnlyTheHostChangesArguments := by
  intro s t h hr h0 h1 h2 h3
  have hargs : ∀ i w, nextTransition s ≠ .write (argOffset i) 4 w
    | 0 => h0
    | 1 => h1
    | 2 => h2
    | 3 => h3
  have hsame := (step_frame h hr).args hargs
  exact ⟨hsame 0, hsame 1, hsame 2, hsame 3⟩

theorem step_of_next {s : State} {a : Transition} (h : nextTransition s = a) : step s = transition a (takeScheduled s) := by
  rw [step, h]

/-- Settles O53: a read of EVT_DATA pops, the two dispatches push, and `step_frame` keeps EVQ in every other step. -/
theorem eventQueueIsFirstInFirstOut : Obligations.EventQueueIsFirstInFirstOut := by
  intro s t h
  refine ⟨fun hn => ?_, fun ch lvl hn => ?_, fun ch ev hn => ?_, fun hn => ?_, fun hread hedge htouch hr => ?_⟩
  · rw [step_of_next hn, transition, hostRead_of_aligned (by decide)] at h
    cases h
    rfl
  · rw [step_of_next hn] at h
    cases h
    exact evq_prefix_edge ch lvl (takeScheduled s)
  · rw [step_of_next hn] at h
    cases h
    exact evq_prefix_touchEvent ch ev (takeScheduled s)
  · rw [step_of_next hn] at h
    cases h
    rfl
  · exact (step_frame h hr).evq hread hedge htouch

/-! ### The two halves of NOW (R15, R55) -/

theorem hostRead_nowLo (s : State) :
    hostRead 0x038 4 s = .next { s with nowHiSnap := s.now.extractLsb' 32 32, resp := .data (s.now.extractLsb' 0 32) } :=
  hostRead_of_aligned (by decide) s

theorem hostRead_nowHi (s : State) : hostRead 0x03C 4 s = .next { s with resp := .data s.nowHiSnap } :=
  hostRead_of_aligned (by decide) s

/-- A run over scheduled transitions with neither a read of NOW_LO nor a reset among them keeps the snapshot. -/
theorem run_nowHiSnap {mid l : List Transition} {s u : State} (hs : s.schedule = mid ++ l)
    (hlo : .read 0x038 4 ∉ mid) (hr : .reset ∉ mid) (h : Sys2Proof.core.run mid.length s = .next u) :
    u.schedule = l ∧ u.nowHiSnap = s.nowHiSnap := by
  induction mid generalizing s with
  | nil =>
    cases h
    exact ⟨hs, rfl⟩
  | cons a mid ih =>
    rw [List.mem_cons, not_or] at hlo hr
    have hn : nextTransition s = a := by rw [nextTransition, hs]; rfl
    obtain ⟨t, ht, hrun⟩ := core_run_succ_next h
    have hframe := step_frame ht (hn ▸ Ne.symm hr.1)
    have htail : t.schedule = mid ++ l := by rw [hframe.schedule, hs]; rfl
    obtain ⟨hl, hsnap⟩ := ih htail hlo.2 hr.2 hrun
    exact ⟨hl, hsnap.trans (hframe.snap (hn ▸ Ne.symm hlo.1))⟩

/-- Settles O49: the first read latches the upper half, and nothing between the two reads changes the latch. -/
theorem nowReadsAreConsistent : Obligations.NowReadsAreConsistent := by
  refine ⟨fun s => ⟨hostRead_nowLo s, hostRead_nowHi s⟩, fun s t u v mid l hs hlo hr ht hu hv => ?_⟩
  have hfirst := (step_of_schedule hs).trans (hostRead_nowLo { s with schedule := mid ++ .read 0x03C 4 :: l })
  cases ht.symm.trans hfirst
  obtain ⟨hl, hsnap⟩ := run_nowHiSnap rfl hlo hr hu
  have hlast := (step_of_schedule hl).trans (hostRead_nowHi { u with schedule := l })
  cases hv.symm.trans hlast
  exact ⟨rfl, congrArg BusResp.data hsnap⟩

/-! ### What the registers read (R44 to R58) -/

theorem regAt_outBlock {c : Params} {ch : Chan} {off : BitVec 12} (hc : c.HasChannel .out ch)
    (hb : (off.extractLsb' 8 4).toNat = 1) (hch : chanOfBlock off = ch) : regAt c off = some (outReg off) := by
  rw [regAt, hb]
  exact if_pos (hch ▸ hc)

theorem regAt_inBlock {c : Params} {ch : Chan} {off : BitVec 12} (hc : c.HasChannel .inp ch)
    (hb : (off.extractLsb' 8 4).toNat = 2) (hch : chanOfBlock off = ch) : regAt c off = inReg off := by
  rw [regAt, hb]
  exact if_pos (hch ▸ hc)

theorem regAt_touchBlock {c : Params} {ch : Chan} {off : BitVec 12} (hc : c.HasChannel .touch ch)
    (hb : (off.extractLsb' 8 4).toNat = 3) (hlt : off.toNat < 0x340) (hch : off.extractLsb' 2 4 = ch) :
    regAt c off = some (.touchStat ch) := by
  rw [regAt, hb]
  simp only [hch]
  exact if_pos ⟨hlt, hc⟩

/-- The four words of an output channel's block (R43, R56). -/
theorem regAt_out {c : Params} {ch : Chan} (hc : c.HasChannel .out ch) :
    regAt c (0x100 + 0x10 * ch.setWidth 12) = some (.outStat ch) ∧
      regAt c (0x104 + 0x10 * ch.setWidth 12) = some (.outPeriod ch) ∧
      regAt c (0x108 + 0x10 * ch.setWidth 12) = some (.outStart ch) ∧
      regAt c (0x10C + 0x10 * ch.setWidth 12) = some (.outPperiod ch) := by
  refine ⟨?_, ?_, ?_, ?_⟩ <;> rw [regAt_outBlock hc] <;> (clear hc; decide +revert)

/-- The three registers of an input channel's block (R43, R57). -/
theorem regAt_in {c : Params} {ch : Chan} (hc : c.HasChannel .inp ch) :
    regAt c (0x200 + 0x10 * ch.setWidth 12) = some (.inStat ch) ∧
      regAt c (0x204 + 0x10 * ch.setWidth 12) = some (.inInterval ch) ∧
      regAt c (0x208 + 0x10 * ch.setWidth 12) = some (.inLastTs ch) := by
  refine ⟨?_, ?_, ?_⟩ <;> rw [regAt_inBlock hc] <;> (clear hc; decide +revert)

/-- A touch channel's register (R43, R58). -/
theorem regAt_touch {c : Params} {ch : Chan} (hc : c.HasChannel .touch ch) :
    regAt c (0x300 + 0x4 * ch.setWidth 12) = some (.touchStat ch) := by
  refine regAt_touchBlock hc ?_ ?_ ?_ <;> (clear hc; decide +revert)

theorem windowWord_of_regAt {s : State} {off : BitVec 12} {r : Reg} (h : regAt s.cfg off = some r) :
    windowWord s off = regValue s r := by
  rw [windowWord, h]

/-- The fields of OUT_STAT, and zeros between them (R56). -/
theorem outStatWord_fields (o : OutCh) :
    (outStatWord o).extractLsb' 0 3 = o.effect.code ∧ (outStatWord o).getLsbD 3 = o.blinking ∧
      (outStatWord o).getLsbD 4 = o.pulsing ∧ (outStatWord o).extractLsb' 5 2 = o.engine.code ∧
      (outStatWord o).getLsbD 7 = o.level ∧ (outStatWord o).getLsbD 8 = o.settle ∧
      (outStatWord o).extractLsb' 16 7 = o.duty ∧ (outStatWord o).extractLsb' 24 2 = o.phase.code ∧
      (outStatWord o).extractLsb' 9 7 = 0 ∧ (outStatWord o).getLsbD 23 = false ∧
      (outStatWord o).extractLsb' 26 6 = 0 := by
  refine ⟨?_, ?_, ?_, ?_, ?_, ?_, ?_, ?_, ?_, ?_, ?_⟩ <;> simp [outStatWord, flagAt, BitVec.extractLsb'_or]

/-- The flags of IN_STAT, and zeros above them (R57). -/
theorem inStatWord_fields (c : InCh) :
    (inStatWord c).getLsbD 0 = c.subscribed ∧ (inStatWord c).getLsbD 1 = c.high.valid ∧
      (inStatWord c).getLsbD 2 = c.low.valid ∧ (inStatWord c).getLsbD 3 = c.changed.valid ∧
      (inStatWord c).getLsbD 4 = c.lastLevel ∧ (inStatWord c).getLsbD 5 = c.lastValid ∧
      (inStatWord c).extractLsb' 6 26 = 0 := by
  refine ⟨?_, ?_, ?_, ?_, ?_, ?_, ?_⟩ <;> simp [inStatWord, flagAt, BitVec.extractLsb'_or]

/-- The flags of TOUCH_STAT, and zeros above them (R58). -/
theorem touchStatWord_fields (t : TouchCh) :
    (touchStatWord t).getLsbD 0 = t.pressed ∧ (touchStatWord t).getLsbD 1 = t.held ∧
      (touchStatWord t).getLsbD 2 = t.pressSlot.valid ∧ (touchStatWord t).getLsbD 3 = t.releaseSlot.valid ∧
      (touchStatWord t).getLsbD 4 = t.heldSlot.valid ∧ (touchStatWord t).extractLsb' 5 27 = 0 := by
  refine ⟨?_, ?_, ?_, ?_, ?_, ?_⟩ <;> simp [touchStatWord, flagAt, BitVec.extractLsb'_or]

/-- A word is the sum of its four bytes, each at its place. -/
theorem toNat_eq_bytes (w : Word) :
    w.toNat = (w.extractLsb' 0 8).toNat + 2 ^ 8 * (w.extractLsb' 8 8).toNat + 2 ^ 16 * (w.extractLsb' 16 8).toNat +
      2 ^ 24 * (w.extractLsb' 24 8).toNat := by
  simp only [BitVec.extractLsb'_toNat, Nat.shiftRight_eq_div_pow]
  omega

/-- The four bytes of PARAM (R46). -/
theorem paramWord_fields (c : Params) :
    (paramWord c).extractLsb' 0 8 = BitVec.ofNat 8 c.nOut ∧ (paramWord c).extractLsb' 8 8 = BitVec.ofNat 8 c.nIn ∧
      (paramWord c).extractLsb' 16 8 = BitVec.ofNat 8 c.nTouch ∧
      (paramWord c).extractLsb' 24 8 = BitVec.ofNat 8 c.evqDepth := by
  refine ⟨?_, ?_, ?_, ?_⟩ <;> simp [paramWord, BitVec.extractLsb'_or]

/-- In a legal build each parameter fits its byte of PARAM (R6, R46). -/
theorem paramWord_toNat {c : Params} (h : c.Legal) :
    (paramWord c).toNat = c.nOut + 2 ^ 8 * c.nIn + 2 ^ 16 * c.nTouch + 2 ^ 24 * c.evqDepth := by
  obtain ⟨⟨-, hout⟩, ⟨-, hin⟩, ⟨-, htouch⟩, ⟨-, hevq⟩, -⟩ := h
  obtain ⟨b0, b1, b2, b3⟩ := paramWord_fields c
  rw [toNat_eq_bytes, b0, b1, b2, b3]
  simp only [BitVec.toNat_ofNat]
  omega

theorem evtCount_toNat {s : State} (h : s.evq.length ≤ 255) : (regValue s .evtCount).toNat = s.evq.length := by
  rw [regValue, BitVec.toNat_setWidth, BitVec.toNat_ofNat]
  omega

theorem errCode_toNat (s : State) : (regValue s .errCode).toNat = s.errCode.code.toNat := by
  rw [regValue, BitVec.toNat_setWidth]
  omega

/-- Settles O50: each offset names its register, whose value is that of the state field by field. -/
theorem registersReadTheState : Obligations.RegistersReadTheState := by
  refine ⟨by decide, fun s ch => ⟨rfl, rfl, paramWord_toNat, evtCount_toNat, rfl, errCode_toNat s, rfl, fun hc => ?_,
    fun hc => ?_, fun hc => ?_⟩⟩
  · obtain ⟨hstat, hperiod, hstart, hpperiod⟩ := regAt_out hc
    exact ⟨windowWord_of_regAt hstat, windowWord_of_regAt hperiod, windowWord_of_regAt hstart, windowWord_of_regAt hpperiod,
      outStatWord_fields _⟩
  · obtain ⟨hstat, hinterval, hts⟩ := regAt_in hc
    exact ⟨windowWord_of_regAt hstat, windowWord_of_regAt hinterval, windowWord_of_regAt hts, inStatWord_fields _⟩
  · exact ⟨windowWord_of_regAt (regAt_touch hc), touchStatWord_fields _⟩

end Sys2Proof.Machine

/-! The proofs of the statements about the register window (20_memory.md) and about EVQ's records (R124). -/

namespace Sys2Proof.Machine

/-! ### Accesses the bus refuses (R39) -/

theorem not_accessOk {off : BitVec 12} {width : Nat} (h : width ≠ 4 ∨ off.toNat % 4 ≠ 0) : ¬ AccessOk off width := by
  rintro ⟨hwidth, hlow⟩
  exact h.elim (fun hne => hne hwidth) (fun hne => hne ((aligned_iff off).2 hlow))

/-- Settles O41: the bus accepts no such access, so both answers are the bus error. -/
theorem illFormedAccessIsABusError : Obligations.IllFormedAccessIsABusError := fun _ _ _ _ h =>
  ⟨if_neg (not_accessOk h), if_neg (not_accessOk h)⟩

/-! ### Accesses without an effect (R40, R41, R60) -/

/-- Settles O43: of the cases of an accepted write, the premises leave only the one that changes nothing. -/
theorem readOnlyRegistersIgnoreWrites : Obligations.ReadOnlyRegistersIgnoreWrites := by
  intro s off w haligned hstatus hirqEn h0 h1 h2 h3 hcmd
  rw [hostWrite_of_aligned haligned]
  obtain ⟨rfl, -⟩ | ⟨rfl, -⟩ | ⟨rfl, -⟩ | ⟨i, hi, -⟩ | e := writeAt_cases off w { s with resp := .done }
  · exact absurd rfl hcmd
  · exact absurd rfl hstatus
  · exact absurd rfl hirqEn
  · have hlt := i.isLt
    omega
  · exact e

/-- Settles O44: of the cases of an accepted read, the premises leave only the one without a side effect. -/
theorem otherReadsHaveNoSideEffect : Obligations.OtherReadsHaveNoSideEffect := by
  intro s off haligned hdata hlo
  rw [hostRead_of_aligned haligned]
  obtain ⟨rfl, -⟩ | ⟨rfl, -⟩ | ⟨-, -, e⟩ := readAt_cases off s
  · exact absurd rfl hdata
  · exact absurd rfl hlo
  · rw [e]

/-! ### Offsets that no register occupies (R40, R43) -/

theorem hostRead_of_unmapped {s : State} {off : BitVec 12} (ha : off.toNat % 4 = 0) (h : regAt s.cfg off = none) :
    hostRead off 4 s = .next { s with resp := .data 0 } := by
  rw [hostRead_of_aligned ha, readAt, windowWord, h]

theorem hostWrite_of_unmapped {s : State} {off : BitVec 12} (ha : off.toNat % 4 = 0) (h : regAt s.cfg off = none)
    (w : Word) : hostWrite off 4 w s = .next { s with resp := .done } := by
  rw [hostWrite_of_aligned ha, writeAt, h]

theorem extractLsb'_offset_toNat (off : BitVec 12) (lo : Nat) :
    (off.extractLsb' lo 4).toNat = off.toNat / 2 ^ lo % 16 := by
  rw [BitVec.extractLsb'_toNat, Nat.shiftRight_eq_div_pow]

/-- The common registers end at 0x03C (R43). -/
theorem commonReg_eq_none {n : Nat} (h : 0x040 ≤ n) : commonReg n = none := by
  unfold commonReg
  split
  case h_17 => rfl
  all_goals omega

theorem regAt_common_unmapped (c : Params) {off : BitVec 12} (hlo : 0x040 ≤ off.toNat) (hhi : off.toNat < 0x100) :
    regAt c off = none := by
  have hb : (off.extractLsb' 8 4).toNat = 0 := by rw [extractLsb'_offset_toNat]; omega
  rw [regAt, hb]
  exact commonReg_eq_none hlo

theorem regAt_out_unmapped {c : Params} {off : BitVec 12} (hlo : 0x100 ≤ off.toNat) (hhi : off.toNat < 0x200)
    (hc : c.nOut ≤ (off.toNat - 0x100) / 16) : regAt c off = none := by
  have hb : (off.extractLsb' 8 4).toNat = 1 := by rw [extractLsb'_offset_toNat]; omega
  have habsent : ¬ c.HasChannel .out (chanOfBlock off) := by
    rw [Params.HasChannel, chanOfBlock, extractLsb'_offset_toNat, Params.count]
    omega
  rw [regAt, hb]
  exact if_neg habsent

theorem inReg_eq_none {off : BitVec 12} (h : off.toNat % 16 = 12) : inReg off = none := by
  have hword : (off.extractLsb' 0 4).toNat = 12 := by rw [extractLsb'_offset_toNat]; omega
  simp only [inReg, hword]

theorem regAt_in_unmapped {c : Params} {off : BitVec 12} (hlo : 0x200 ≤ off.toNat) (hhi : off.toNat < 0x300)
    (h : c.nIn ≤ (off.toNat - 0x200) / 16 ∨ off.toNat % 16 = 12) : regAt c off = none := by
  have hb : (off.extractLsb' 8 4).toNat = 2 := by rw [extractLsb'_offset_toNat]; omega
  rw [regAt, hb]
  obtain hc | hword := h
  · have habsent : ¬ c.HasChannel .inp (chanOfBlock off) := by
      rw [Params.HasChannel, chanOfBlock, extractLsb'_offset_toNat, Params.count]
      omega
    exact if_neg habsent
  · simp only [inReg_eq_none hword, ite_self]

theorem regAt_touch_unmapped {c : Params} {off : BitVec 12} (hlo : 0x300 ≤ off.toNat) (hhi : off.toNat < 0x340)
    (hc : c.nTouch ≤ (off.toNat - 0x300) / 4) : regAt c off = none := by
  have hb : (off.extractLsb' 8 4).toNat = 3 := by rw [extractLsb'_offset_toNat]; omega
  have habsent : ¬ c.HasChannel .touch (off.extractLsb' 2 4) := by
    rw [Params.HasChannel, extractLsb'_offset_toNat, Params.count]
    omega
  rw [regAt, hb]
  exact if_neg fun h => habsent h.2

/-- The map ends with the sixteenth touch channel (R43). -/
theorem regAt_above_touch (c : Params) {off : BitVec 12} (h : 0x340 ≤ off.toNat) : regAt c off = none := by
  have hb : 3 ≤ (off.extractLsb' 8 4).toNat := by rw [extractLsb'_offset_toNat]; omega
  unfold regAt
  split
  case h_4 => exact if_neg fun hlt => absurd hlt.1 (Nat.not_lt.2 h)
  case h_5 => rfl
  all_goals omega

/-- Settles O42: no register stands at an offset of any of the five ranges. -/
theorem unmappedReadsZeroAndIgnoresWrites : Obligations.UnmappedReadsZeroAndIgnoresWrites := by
  intro s off w haligned hrange
  have hnone : regAt s.cfg off = none := by
    obtain ⟨hlo, hhi⟩ | ⟨hlo, hhi, hc⟩ | ⟨hlo, hhi, hcw⟩ | ⟨hlo, hhi, hc⟩ | hlo := hrange
    · exact regAt_common_unmapped s.cfg hlo hhi
    · exact regAt_out_unmapped hlo hhi hc
    · exact regAt_in_unmapped hlo hhi hcw
    · exact regAt_touch_unmapped hlo hhi hc
    · exact regAt_above_touch s.cfg hlo
  exact ⟨hostRead_of_unmapped haligned hnone, hostWrite_of_unmapped haligned hnone w⟩

/-! ### The arguments (R52) -/

theorem argOffset_aligned (i : Fin 4) : (argOffset i).toNat % 4 = 0 := by decide +revert

theorem regAt_argOffset (c : Params) (i : Fin 4) : regAt c (argOffset i) = some (.arg i) := by
  fin_cases i <;> rfl

theorem hostWrite_arg (i : Fin 4) (w : Word) (s : State) :
    hostWrite (argOffset i) 4 w s = .next ({ s with resp := .done }.setArg i w) := by
  rw [hostWrite_of_aligned (argOffset_aligned i), writeAt, regAt_argOffset]
  rfl

theorem hostRead_arg (i : Fin 4) (s : State) : hostRead (argOffset i) 4 s = .next { s with resp := .data (s.arg i) } := by
  rw [hostRead_of_aligned (argOffset_aligned i), readAt, windowWord, regAt_argOffset]
  rfl

/-- Settles O45: one write and one read, at each of the four offsets. -/
theorem argumentsHoldTheLastWrite : Obligations.ArgumentsHoldTheLastWrite := fun s w =>
  ⟨hostWrite_arg 0 w s, hostWrite_arg 1 w s, hostWrite_arg 2 w s, hostWrite_arg 3 w s,
    hostRead_arg 0 s, hostRead_arg 1 s, hostRead_arg 2 s, hostRead_arg 3 s⟩

/-! ### STATUS and IRQ_EN (R47, R49, R126) -/

theorem hostWrite_status (w : Word) (s : State) :
    hostWrite 0x00C 4 w s = .next (writeStatus { s with resp := .done } w) :=
  hostWrite_of_aligned (by decide) w s

theorem hostRead_status (s : State) : hostRead 0x00C 4 s = .next { s with resp := .data (statusWord s) } :=
  hostRead_of_aligned (by decide) s

theorem evtPend_iff (s : State) : s.evtPend = true ↔ s.evq ≠ [] := by
  rw [State.evtPend, decide_eq_true_iff, List.length_pos_iff]

/-- A flag shows at its own bit only. -/
theorem getLsbD_flagAt (k i : Nat) (b : Bool) (h : k < 32) : (flagAt k b).getLsbD i = (decide (i = k) && b) := by
  rw [flagAt, getLsbD_place, BitVec.getLsbD_ofBool]
  obtain hi | rfl | hi := lt_trichotomy i k
  · simp [hi.ne, Nat.not_le.2 hi]
  · simp [h]
  · simp [hi.ne', Nat.sub_ne_zero_of_lt hi]

/-- The bits of STATUS (R47). -/
theorem statusWord_bits (s : State) (i : Nat) :
    (statusWord s).getLsbD i = (decide (i = 0) && s.busy || decide (i = 1) && s.err || decide (i = 2) && s.evtOvf ||
      decide (i = 3) && s.evtPend || decide (i = 4) && s.irq) := by
  simp (disch := decide) only [statusWord, BitVec.getLsbD_or, getLsbD_flagAt]

/-- Settles O46: the write is W1C field by field, and each bit of the word read is its flag. -/
theorem statusClearsAndShows : Obligations.StatusClearsAndShows := by
  intro s w
  refine ⟨?_, statusWord s, hostRead_status s, ?_, ?_, ?_, ?_, ?_, fun i hi => ?_⟩
  · rw [hostWrite_status, writeStatus_eq]
  · simpa using statusWord_bits s 0
  · simpa using statusWord_bits s 1
  · simpa using statusWord_bits s 2
  · rw [← evtPend_iff, statusWord_bits]
    simp
  · simpa using statusWord_bits s 4
  · have hne : i ≠ 0 ∧ i ≠ 1 ∧ i ≠ 2 ∧ i ≠ 3 ∧ i ≠ 4 := by omega
    simp [statusWord_bits, hne]

theorem hostWrite_irqEn (w : Word) (s : State) :
    hostWrite 0x014 4 w s = .next { s with irqEn := w.extractLsb' 0 3, resp := .done } :=
  hostWrite_of_aligned (by decide) w s

theorem hostRead_irqEn (s : State) : hostRead 0x014 4 s = .next { s with resp := .data (s.irqEn.setWidth 32) } :=
  hostRead_of_aligned (by decide) s

theorem irq_iff (s : State) :
    s.irq = true ↔ (s.irqEnEvt = true ∧ 0 < s.evq.length) ∨ (s.irqEnErr = true ∧ s.err = true) ∨
      (s.irqEnOvf = true ∧ s.evtOvf = true) := by
  simp only [State.irq, State.evtPend, Bool.or_eq_true, Bool.and_eq_true, decide_eq_true_iff, or_assoc]

/-- Settles O47: IRQ_EN is one register of the map, and the line is the OR of `irq_iff`. -/
theorem interruptLineFollowsItsSources : Obligations.InterruptLineFollowsItsSources := fun s w =>
  ⟨hostWrite_irqEn w s, hostRead_irqEn s, irq_iff s⟩

/-! ### EVT_DATA and the records (R51, R124) -/

theorem hostRead_evtData (s : State) :
    hostRead 0x01C 4 s = .next { s with evq := s.evq.tail, resp := .data (s.evq.headD 0) } :=
  hostRead_of_aligned (by decide) s

/-- Settles O48: the head and the tail of EVQ, in its two shapes. -/
theorem eventDataPopsTheOldest : Obligations.EventDataPopsTheOldest := by
  refine fun s => ⟨fun r l h => ?_, fun h => ?_⟩
  · rw [hostRead_evtData, h]
    rfl
  · rw [hostRead_evtData, h]
    rfl

/-- The word 0 has SRC 0 and EV 0, so as a record it would be IN's at the HIGH slot, whose LVL is 1. -/
theorem not_recordOk_zero (c : Params) : ¬ RecordOk c 0 := by
  rintro ⟨-, -, ⟨-, -, hhigh, -⟩ | ⟨hsrc, -⟩⟩
  · exact absurd (hhigh (by decide)) (by decide)
  · exact absurd hsrc (by decide)

/-- Settles O60: every word in EVQ of a reachable state is a record that R124 allows. -/
theorem noRecordIsZero : Obligations.NoRecordIsZero := fun s hs hmem =>
  not_recordOk_zero s.cfg (hs.inv.evq_ok 0 hmem)

end Sys2Proof.Machine

/-! The proofs of the statements about the command words and the opcode map (R64 to R74), about PULSE's engine (R66, R97) and
about the default forms (R102). -/

namespace Sys2Proof

/-! ### The fields of a packed word (R64) -/

section
variable (op : BitVec 8) (ch : Chan) (fl : BitVec 4) (tok : Token)

@[simp] theorem opOf_pack : opOf (pack op ch fl tok) = op := (pack_fields op ch fl tok).1

@[simp] theorem chOf_pack : chOf (pack op ch fl tok) = ch := (pack_fields op ch fl tok).2.1

@[simp] theorem flOf_pack : flOf (pack op ch fl tok) = fl := (pack_fields op ch fl tok).2.2.1

@[simp] theorem tokOf_pack : tokOf (pack op ch fl tok) = tok := (pack_fields op ch fl tok).2.2.2

end

theorem pack_eq_iff {op : BitVec 8} {ch : Chan} {fl : BitVec 4} {tok : Token} {w : Word} :
    pack op ch fl tok = w ↔ opOf w = op ∧ chOf w = ch ∧ flOf w = fl ∧ tokOf w = tok := by
  conv_lhs => rw [eq_comm, ← pack_of_fields w]
  exact pack_inj

@[simp] theorem getElem_zero_flag0 (b : Bool) : (flag0 b)[0] = b := by cases b <;> rfl

@[simp] theorem extractLsb'_flag0 (b : Bool) : (flag0 b).extractLsb' 1 3 = 0 := by cases b <;> rfl

/-- With FL[3:1] zero, FL[0] is all there is of FL. -/
theorem flOf_eq_flag0 {w : Word} (h : (flOf w).extractLsb' 1 3 = 0) : flOf w = flag0 (fl0Of w) := by
  unfold fl0Of
  generalize flOf w = fl at h ⊢
  decide +revert

/-! ### Decoding and encoding (R64, R67) -/

theorem ifZero_eq_ok {b : Bool} {i j : Instr} : ifZero b i = .ok j ↔ b = true ∧ i = j := by
  cases b <;> simp [ifZero]

theorem ifZero_ne_illegalOpcode (b : Bool) (i : Instr) : ifZero b i ≠ .error .illegalOpcode := by
  cases b <;> simp [ifZero]

/-- Settles O1: each command's word has its opcode, its must-be-zero fields zero and its operands in their fields. -/
theorem decodeOfEncode : Obligations.DecodeOfEncode := by
  intro i
  cases i <;> simp [encode, decode, ifZero, flagsAbove0Zero, fl0Of]

/-- Settles O2: in the branch of each opcode all four fields of the word are known, the must-be-zero ones from `ifZero`. -/
theorem encodeOfDecode : Obligations.EncodeOfDecode := by
  intro w i h
  unfold decode at h
  split at h
  case h_16 => cases h
  all_goals
    obtain ⟨hz, rfl⟩ := ifZero_eq_ok.1 h
    simp only [Bool.and_eq_true, beq_iff_eq, flagsAbove0Zero] at hz
    refine pack_eq_iff.2 ⟨BitVec.eq_of_toNat_eq ‹_›, ?_⟩
    simp [hz, flOf_eq_flag0]

theorem decode_eq_ok_iff {w : Word} {i : Instr} : decode w = .ok i ↔ encode i = w :=
  ⟨encodeOfDecode w i, fun h => h ▸ decodeOfEncode i⟩

/-- Settles O6: the word of NOP is 0. -/
theorem zeroIsTheOnlyNop : Obligations.ZeroIsTheOnlyNop := fun w => by
  rw [decode_eq_ok_iff, show encode .nop = 0x00000000 from rfl, eq_comm]

/-- Settles O7: each of the words is `encode` of its command. -/
theorem workedWordsDecode : Obligations.WorkedWordsDecode := by
  simp only [Obligations.WorkedWordsDecode, decode_eq_ok_iff]
  decide

/-! ### The opcode map (R67, R69, R70) -/

theorem rowOf_mem_opcodeRows (i : Instr) : rowOf i ∈ opcodeRows := by
  cases i <;> simp [rowOf, opcodeRows]

theorem encode_matches_rowOf (i : Instr) : (rowOf i).Matches (encode i) := by
  cases i with
  | nop => exact Laws.MatchesTable.nop
  | write ch v => exact Laws.MatchesTable.write ch v
  | toggle ch => exact Laws.MatchesTable.toggle ch
  | blink ch offp => exact Laws.MatchesTable.blink ch offp
  | pulse ch fl => exact Laws.MatchesTable.pulse ch fl
  | fade ch => exact Laws.MatchesTable.fade ch
  | stop ch => exact Laws.MatchesTable.stop ch
  | stopAll => exact Laws.MatchesTable.stopAll
  | inOnHigh ch tok => exact Laws.MatchesTable.inOnHigh ch tok
  | inOnLow ch tok => exact Laws.MatchesTable.inOnLow ch tok
  | inOnChanged ch tok => exact Laws.MatchesTable.inOnChanged ch tok
  | inClear ch => exact Laws.MatchesTable.inClear ch
  | touchOnPress ch tok => exact Laws.MatchesTable.touchOnPress ch tok
  | touchOnRelease ch tok => exact Laws.MatchesTable.touchOnRelease ch tok
  | touchOnHeld ch tok => exact Laws.MatchesTable.touchOnHeld ch tok

/-- What a mask of R67 that fixes OP and the parts `c`, `f` and `t` of CH, FL and TOK says of a word. -/
theorem fields_of_and {w m : Word} {op : BitVec 8} {c : Chan} {f : BitVec 4} {t : Token} (hm : m = pack 0xFF c f t)
    (h : w &&& m = op.setWidth 32) : opOf w = op ∧ chOf w &&& c = 0 ∧ flOf w &&& f = 0 ∧ tokOf w &&& t = 0 := by
  rw [hm, ← pack_of_fields w, pack_and, ← Laws.MatchesTable.pack_op, pack_inj,
    show opOf w &&& 0xFF = opOf w from BitVec.and_allOnes] at h
  exact h

/-! The five masks of R67: a word that one of them takes to an opcode is that opcode with the operands the mask leaves free. -/

section
variable {op : BitVec 8} {w : Word}

theorem pack_of_and_noneFree (h : w &&& 0xFFFFFFFF = op.setWidth 32) : pack op 0 0 0 = w :=
  calc pack op 0 0 0 = op.setWidth 32 := Laws.MatchesTable.pack_op op
    _ = w &&& 0xFFFFFFFF := h.symm
    _ = w := BitVec.and_allOnes

theorem pack_of_and_freeChFl0 (h : w &&& 0xFFFFE0FF = op.setWidth 32) : pack op (chOf w) (flag0 (fl0Of w)) 0 = w := by
  obtain ⟨hop, -, hfl, htok⟩ := fields_of_and Laws.MatchesTable.masks.2.1 h
  have hfl' : (flOf w).extractLsb' 1 3 = 0 := by
    generalize flOf w = fl at hfl
    decide +revert
  exact pack_eq_iff.2 ⟨hop, rfl, flOf_eq_flag0 hfl', BitVec.and_allOnes.symm.trans htok⟩

theorem pack_of_and_freeCh (h : w &&& 0xFFFFF0FF = op.setWidth 32) : pack op (chOf w) 0 0 = w := by
  obtain ⟨hop, -, hfl, htok⟩ := fields_of_and Laws.MatchesTable.masks.2.2.1 h
  exact pack_eq_iff.2 ⟨hop, rfl, BitVec.and_allOnes.symm.trans hfl, BitVec.and_allOnes.symm.trans htok⟩

theorem pack_of_and_freeChFl (h : w &&& 0xFFFF00FF = op.setWidth 32) : pack op (chOf w) (flOf w) 0 = w := by
  obtain ⟨hop, -, -, htok⟩ := fields_of_and Laws.MatchesTable.masks.2.2.2.1 h
  exact pack_eq_iff.2 ⟨hop, rfl, rfl, BitVec.and_allOnes.symm.trans htok⟩

theorem pack_of_and_freeChTok (h : w &&& 0x0000F0FF = op.setWidth 32) : pack op (chOf w) 0 (tokOf w) = w := by
  obtain ⟨hop, -, hfl, -⟩ := fields_of_and Laws.MatchesTable.masks.2.2.2.2 h
  exact pack_eq_iff.2 ⟨hop, rfl, BitVec.and_allOnes.symm.trans hfl, rfl⟩

end

/-- A word that matches a command's row is the word of a command of that row, with the operands that stand in the word. -/
theorem exists_encode_of_matches {w : Word} (i : Instr) (h : (rowOf i).Matches w) : ∃ j, encode j = w ∧ rowOf j = rowOf i := by
  cases i with
  | nop => exact ⟨.nop, pack_of_and_noneFree h, rfl⟩
  | write _ _ => exact ⟨.write (chOf w) (fl0Of w), pack_of_and_freeChFl0 h, rfl⟩
  | toggle _ => exact ⟨.toggle (chOf w), pack_of_and_freeCh h, rfl⟩
  | blink _ _ => exact ⟨.blink (chOf w) (fl0Of w), pack_of_and_freeChFl0 h, rfl⟩
  | pulse _ _ => exact ⟨.pulse (chOf w) (flOf w), pack_of_and_freeChFl h, rfl⟩
  | fade _ => exact ⟨.fade (chOf w), pack_of_and_freeCh h, rfl⟩
  | stop _ => exact ⟨.stop (chOf w), pack_of_and_freeCh h, rfl⟩
  | stopAll => exact ⟨.stopAll, pack_of_and_noneFree h, rfl⟩
  | inOnHigh _ _ => exact ⟨.inOnHigh (chOf w) (tokOf w), pack_of_and_freeChTok h, rfl⟩
  | inOnLow _ _ => exact ⟨.inOnLow (chOf w) (tokOf w), pack_of_and_freeChTok h, rfl⟩
  | inOnChanged _ _ => exact ⟨.inOnChanged (chOf w) (tokOf w), pack_of_and_freeChTok h, rfl⟩
  | inClear _ => exact ⟨.inClear (chOf w), pack_of_and_freeCh h, rfl⟩
  | touchOnPress _ _ => exact ⟨.touchOnPress (chOf w) (tokOf w), pack_of_and_freeChTok h, rfl⟩
  | touchOnRelease _ _ => exact ⟨.touchOnRelease (chOf w) (tokOf w), pack_of_and_freeChTok h, rfl⟩
  | touchOnHeld _ _ => exact ⟨.touchOnHeld (chOf w) (tokOf w), pack_of_and_freeChTok h, rfl⟩

theorem decode_of_matches {w : Word} {r : OpcodeRow} (hr : r ∈ opcodeRows) (h : r.Matches w) :
    ∃ i, decode w = .ok i ∧ rowOf i = r := by
  obtain ⟨k, -, rfl⟩ := List.mem_map.1 hr
  obtain ⟨i, hw, hi⟩ := exists_encode_of_matches k h
  exact ⟨i, decode_eq_ok_iff.2 hw, hi⟩

theorem matches_of_decode {w : Word} {i : Instr} (h : decode w = .ok i) : (rowOf i).Matches w :=
  decode_eq_ok_iff.1 h ▸ encode_matches_rowOf i

/-- Settles O3: both rows that a word matches are the row of the command it decodes to. -/
theorem commandsAreTheOpcodeMap : Obligations.CommandsAreTheOpcodeMap := by
  refine ⟨fun w i => matches_of_decode, fun w r => decode_of_matches, fun w r q hr hq hrw hqw => ?_⟩
  obtain ⟨i, hi, rfl⟩ := decode_of_matches hr hrw
  obtain ⟨j, hj, rfl⟩ := decode_of_matches hq hqw
  cases hi.symm.trans hj
  rfl

/-- The opcodes that are in no row of the map (R69). -/
def IllegalOp (op : BitVec 8) : Prop :=
  (0x08 ≤ op.toNat ∧ op.toNat ≤ 0x0F) ∨ (0x14 ≤ op.toNat ∧ op.toNat ≤ 0x1F) ∨ 0x23 ≤ op.toNat

theorem decode_eq_illegalOpcode_iff (w : Word) : decode w = .error .illegalOpcode ↔ IllegalOp (opOf w) := by
  unfold decode IllegalOp
  split
  case h_16 => exact iff_of_true rfl (by simp only [imp_false] at *; omega)
  all_goals exact iff_of_false (ifZero_ne_illegalOpcode _ _) (by omega)

theorem opOf_encode (i : Instr) : opOf (encode i) = opOf (rowOf i).pattern := by
  cases i <;> exact opOf_pack _ _ _ _

theorem not_illegalOp_of_row : ∀ r ∈ opcodeRows, ¬ IllegalOp (opOf r.pattern) := by
  unfold IllegalOp
  decide

/-- No two rows share an opcode (R67). -/
theorem row_eq_of_opOf_eq : ∀ r ∈ opcodeRows, ∀ q ∈ opcodeRows, opOf r.pattern = opOf q.pattern → r = q := by decide

/-- A word with a row's opcode is no illegal opcode, and no command, whose row would be that one. -/
theorem decode_of_not_matches {w : Word} {r : OpcodeRow} (hr : r ∈ opcodeRows) (hop : opOf w = opOf r.pattern)
    (h : ¬ r.Matches w) : decode w = .error .reservedField := by
  match hd : decode w with
  | .error .reservedField => rfl
  | .error .illegalOpcode => exact absurd (hop ▸ (decode_eq_illegalOpcode_iff w).1 hd) (not_illegalOp_of_row r hr)
  | .ok i =>
    have hi : opOf (rowOf i).pattern = opOf r.pattern := by rw [← opOf_encode, decode_eq_ok_iff.1 hd, hop]
    exact absurd (row_eq_of_opOf_eq _ (rowOf_mem_opcodeRows i) r hr hi ▸ matches_of_decode hd) h

end Sys2Proof

namespace Sys2Proof.Machine

/-! ### Refused words (R69, R70, R119, R120) -/

/-- A CMD write of a word that is no command raises the code of its decoding error. -/
theorem hostWrite_cmd_of_decode_error {s : State} {w : Word} {e : DecodeError} (hb : s.busy = false)
    (h : decode w = .error e) :
    hostWrite CMD_OFFSET 4 w s = .next ({ s with resp := .done }.raise (decodeErrCode e)) :=
  calc hostWrite CMD_OFFSET 4 w s = cmdWrite w { s with resp := .done } := hostWrite_of_aligned (by decide) w s
    _ = refuseWord e { s with resp := .done } := cmdWrite_of_decode_error h _
    _ = _ := by
      have hb' : State.busy { s with resp := .done } = false := hb
      rw [refuseWord, hb']
      rfl

/-- Settles O4: the opcodes outside the map, and the refusal that `decodeErrCode` names. -/
theorem illegalOpcodeIsRefused : Obligations.IllegalOpcodeIsRefused := fun w =>
  ⟨(decode_eq_illegalOpcode_iff w).symm, fun _ hb hd => hostWrite_cmd_of_decode_error hb hd⟩

/-- Settles O5: the word decodes to the reserved-field error, and the CMD write raises that error's code. -/
theorem reservedFieldIsRefused : Obligations.ReservedFieldIsRefused := fun _ _ _ hb hr hop h =>
  hostWrite_cmd_of_decode_error hb (decode_of_not_matches hr hop h)

/-! ### PULSE's engine (R66, R83, R97) -/

theorem exec_pulse_of_ready {s : State} {ch : Chan} {fl : BitVec 4} (hr : OutReady s ch)
    (hd : ¬ (pulseProfile s fl).Delegates) (hp : PulsePeriodOk (pulseProfile s fl)) :
    exec (.pulse ch fl) s = .next (s.onOut ch (startPulse s.cfg s.now (pulseProfile s fl) ch)) := by
  obtain ⟨hbusy, hch, -⟩ := hr
  have hw : (Instr.pulse ch fl).wellFormed s.cfg = true := decide_eq_true hch
  rw [exec_of_ready hbusy hw, effect, if_neg hd]
  exact if_pos hp

/-- The period check leaves no overflow in the 32-bit PPERIOD. -/
theorem pperiod_toNat {p : Profile} (h : PulsePeriodOk p) : (BitVec.ofNat 32 p.sum).toNat = p.sum := by
  rw [BitVec.toNat_ofNat, Nat.mod_eq_of_lt (by omega)]

/-- R66's resolution is the only profile whose fields are the resolved operands. -/
theorem eq_pulseProfile {s : State} {fl : BitVec 4} {p : Profile} (htOn : p.tOn = if fl.getLsbD 0 then s.arg0 else 500)
    (htOff : p.tOff = if fl.getLsbD 1 then s.arg1 else p.tOn) (hon : p.on = if fl.getLsbD 2 then s.arg2 else p.tOn)
    (hoff : p.off = if fl.getLsbD 3 then s.arg3 else p.tOn) : p = pulseProfile s fl := by
  obtain ⟨tOn, on, tOff, off⟩ := p
  dsimp only at htOn htOff hon hoff
  subst tOn tOff on off
  rfl

/-- Settles O18: the record and the operations of `startPulse` at the resolved profile. -/
theorem pulseStartsTheEngine : Obligations.PulseStartsTheEngine := by
  intro s ch fl p hr htOn htOff hon hoff hd hp
  obtain rfl := eq_pulseProfile htOn htOff hon hoff
  have ho := State.onOut_outAt_self s (startPulse s.cfg s.now (pulseProfile s fl) ch) hr.channel_lt
  rw [startPulse_o, ChanRun.start_o] at ho
  refine ⟨_, exec_pulse_of_ready hr hd hp, onOut_frame _ _ _, ?_, ?_, ?_⟩
  · rw [ho]
    exact pperiod_toNat hp
  · rw [ho]
  · rw [onOut_emitted, startPulse_ops, startPulse_o]
    rfl

/-! ### The default forms (R66, R102) -/

/-- Two commands with one target and one effect are one command: their checks are the same. -/
theorem exec_congr {i j : Instr} {s : State} (ht : i.target = j.target) (he : effect i s = effect j s) :
    exec i s = exec j s := by
  rw [exec_eq, exec_eq, he, Instr.wellFormed, ht]
  rfl

/-- Settles O21: the operands resolve to the same durations. -/
theorem defaultFormsAreEquivalent : Obligations.DefaultFormsAreEquivalent := by
  refine fun s ch => ⟨fun h => exec_congr rfl ?_, fun ⟨h0, h1, h2, h3⟩ => exec_congr rfl ?_⟩
  · have hoff : blinkOff s false = blinkOff s true := h.symm
    rw [effect, effect, hoff]
  · have hp : pulseProfile s 0 = pulseProfile s 15 := eq_pulseProfile h0.symm h1.symm h2.symm h3.symm
    rw [effect, effect, hp]

end Sys2Proof.Machine

/-! The proofs of the statements about time (R75 to R90): the time step on one channel, the pulse and the fade on their grids, the
settle delay, and runs of time steps. -/

namespace Sys2Proof.Machine

/-! ### A time step, seen from one channel (R75, R76) -/

theorem outAt_inv {s : State} (hs : s.Inv) (ch : Chan) : (s.outAt ch).Inv := by
  by_cases h : ch.toNat < s.out.length
  · exact hs.out_inv _ (s.outAt_mem h)
  · rw [State.outAt_eq, List.getElem?_eq_none (Nat.le_of_not_lt h)]
    exact OutCh.reset_inv

/-- A channel settles only while its effect is WRITING, so not while an engine runs (R32). -/
theorem OutCh.Inv.not_settle {o : OutCh} (ho : o.Inv) (h : o.effect ≠ .writing ∨ o.engine ≠ .none) : o.settle = false := by
  by_contra hs
  obtain ⟨heff, heng⟩ := ho.settle_writing (Bool.eq_true_of_not_eq_false hs)
  exact h.elim (fun hne => hne heff) (fun hne => hne heng)

/-- A channel with no engine has only its settle delay. -/
theorem channelTick_of_no_engine (rd : Rounding) (now : Time) (ch : Chan) {o : OutCh} (he : o.engine = .none) :
    channelTick rd now ch (ChanRun.start o) = settleExpiry now ch (ChanRun.start o) :=
  engineTick_none rd now ch ((settleExpiry_engine now ch _).trans he)

/-- A channel with an engine has only its engine's evaluation. -/
theorem channelTick_of_engine (rd : Rounding) (now : Time) (ch : Chan) {o : OutCh} (ho : o.Inv) (he : o.engine ≠ .none) :
    channelTick rd now ch (ChanRun.start o) = engineTick rd now ch (ChanRun.start o) := by
  have hs : (ChanRun.start o).o.settle = false := ho.not_settle (.inr he)
  rw [channelTick, settleExpiry_not_due ch (fun hdue => Bool.false_ne_true (hs.symm.trans hdue.1))]

/-- A channel with neither an engine nor a settle delay that ends now does nothing. -/
theorem channelTick_idle (rd : Rounding) {now : Time} (ch : Chan) {o : OutCh} (he : o.engine = .none)
    (hs : ¬ (o.settle = true ∧ now = o.settleDl)) : channelTick rd now ch (ChanRun.start o) = ChanRun.start o := by
  rw [channelTick_of_no_engine rd now ch he, settleExpiry_not_due ch hs]

/-- A time step makes of a channel's record, and emits for the channel, what the channel's own part of it does. A channel that
is not in the build reads as a reset record, for which that is nothing (log 6). -/
theorem advance_channel {s : State} (hs : s.Inv) (ch : Chan) :
    (advance s).outAt ch = (channelTick s.cfg.rounding (s.now + 1) ch (ChanRun.start (s.outAt ch))).o ∧
      outOps ch (emitted s (advance s)) =
        (channelTick s.cfg.rounding (s.now + 1) ch (ChanRun.start (s.outAt ch))).ops := by
  cases h : s.out[ch.toNat]? with
  | some o =>
    rw [s.outAt_of_getElem? h]
    exact ⟨advance_outAt h, advance_outOps h hs.out_length_le⟩
  | none =>
    have hreset : s.outAt ch = OutCh.reset := by rw [State.outAt_eq, h]; rfl
    rw [hreset, channelTick_idle _ ch rfl (by simp [OutCh.reset])]
    constructor
    · rw [State.outAt_eq, advance, State.onEveryOut_getElem?, h]
      rfl
    · have hops := onEveryOut_outOps { s with now := s.now + 1 } (local_channelTick s.cfg.rounding (s.now + 1)) ch
        hs.out_length_le
      rw [h] at hops
      exact hops

theorem timeStep_channel {s t : State} (hs : s.Inv) (h : timeStep s = .next t) (ch : Chan) :
    t.outAt ch = (channelTick s.cfg.rounding t.now ch (ChanRun.start (s.outAt ch))).o ∧
      outOps ch (emitted s t) = (channelTick s.cfg.rounding t.now ch (ChanRun.start (s.outAt ch))).ops := by
  rw [timeStep_next h]
  exact advance_channel hs ch

theorem advance_eq (s : State) :
    advance s = { s with now := s.now + 1, out := (advance s).out, port := (advance s).port } := rfl

theorem advance_out_length (s : State) : (advance s).out.length = s.out.length := by simp [advance]

theorem advance_port_prefix (s : State) : s.port <+: (advance s).port := ⟨_, rfl⟩

/-- Settles O25: with its periods a time step is `advance`. -/
theorem timeStepAdvancesNow : Obligations.TimeStepAdvancesNow := fun s h =>
  ⟨advance s, timeStep_of_periods h, by rw [advance_now, BitVec.toNat_add]; rfl, advance_eq s, advance_out_length s,
    advance_port_prefix s⟩

/-- Settles O33: `timeStep_channel` gives both results by the parameters, NOW and the channel's record alone. -/
theorem channelsDoNotInterfere : Obligations.ChannelsDoNotInterfere := by
  intro s1 s2 t1 t2 ch h1 h2 hcfg hnow hout ht1 ht2
  have htime : t1.now = t2.now := by rw [timeStep_next ht1, timeStep_next ht2, advance_now, advance_now, hnow]
  obtain ⟨ho1, hops1⟩ := timeStep_channel h1 ht1 ch
  obtain ⟨ho2, hops2⟩ := timeStep_channel h2 ht2 ch
  rw [ho1, hops1, ho2, hops2, hcfg, htime, hout]
  exact ⟨rfl, rfl⟩

/-- Settles O29: without an engine the channel's part of the step is its settle expiry. -/
theorem settleEndsAtItsDeadline : Obligations.SettleEndsAtItsDeadline := by
  intro s t ch o hs h ho he
  obtain ⟨hrec, hops⟩ := timeStep_channel hs h ch
  rw [s.outAt_of_getElem? ho, channelTick_of_no_engine _ _ _ he] at hrec hops
  rw [hrec, hops]
  refine ⟨fun hdue => ?_, fun hnot => ?_⟩
  · rw [settleExpiry_due (r := ChanRun.start o) ch hdue]
    exact ⟨rfl, rfl⟩
  · rw [settleExpiry_not_due (r := ChanRun.start o) ch hnot]
    exact ⟨rfl, rfl⟩

/-! ### The pulse (R84, R85, R87) -/

section
variable (r : Rounding) {o : OutCh} {d : Nat}

theorem pulseAt_rising (h : d ≤ o.tOn.toNat) :
    pulseAt r o d = (.rising, if o.tOn.toNat = 0 then 100 else rdiv r (100 * d) o.tOn.toNat) := if_pos h

theorem pulseAt_on (h : o.tOn.toNat < d) (h' : d ≤ o.tOn.toNat + o.on.toNat) : pulseAt r o d = (.on, 100) := by
  rw [pulseAt, if_neg (Nat.not_le_of_lt h), if_pos h']

theorem pulseAt_falling (h : o.tOn.toNat + o.on.toNat < d) (h' : d ≤ o.tOn.toNat + o.on.toNat + o.tOff.toNat) :
    pulseAt r o d = (.falling, rdiv r (100 * (o.tOn.toNat + o.on.toNat + o.tOff.toNat - d)) o.tOff.toNat) := by
  rw [pulseAt, if_neg (by omega), if_neg (Nat.not_le_of_lt h), if_pos h']

theorem pulseAt_off (h : o.tOn.toNat + o.on.toNat + o.tOff.toNat < d) : pulseAt r o d = (.off, 0) := by
  rw [pulseAt, if_neg (by omega), if_neg (by omega), if_neg (Nat.not_le_of_lt h)]

end

theorem channelTick_pulse_due {now : Time} (rd : Rounding) (ch : Chan) {o : OutCh} (ho : o.Inv) (he : o.engine = .pulse)
    (hg : (now - o.start).toNat % 20 = 0) :
    channelTick rd now ch (ChanRun.start o) = pulseEval rd now ch (ChanRun.start o) := by
  rw [channelTick_of_engine rd now ch ho (by simp [he]), engineTick_pulse_due (r := ChanRun.start o) rd ch he hg]

theorem channelTick_pulse_off_grid {now : Time} (rd : Rounding) (ch : Chan) {o : OutCh} (ho : o.Inv)
    (he : o.engine = .pulse) (hg : (now - o.start).toNat % 20 ≠ 0) :
    channelTick rd now ch (ChanRun.start o) = ChanRun.start o := by
  rw [channelTick_of_engine rd now ch ho (by simp [he]), engineTick_pulse_off_grid (r := ChanRun.start o) rd ch he hg]

/-- Settles O26: on its grid the channel shows `pulseAt`, whose four branches have a lemma each. -/
theorem pulseRunsOnItsGrid : Obligations.PulseRunsOnItsGrid := by
  rintro s t ch o d a b c hs h ho he hd rfl rfl rfl
  have hinv : o.Inv := hs.out_inv o (List.mem_of_getElem? ho)
  obtain ⟨hrec, hops⟩ := timeStep_channel hs h ch
  rw [s.outAt_of_getElem? ho] at hrec hops
  refine ⟨fun hg => ?_, fun hg => ?_⟩
  · rw [channelTick_pulse_off_grid _ ch hinv he hg] at hrec hops
    exact ⟨hrec, hops⟩
  · rw [channelTick_pulse_due _ ch hinv he hg] at hrec hops
    have hout : t.outAt ch = { o with
        duty := dutyOf (pulseAt s.cfg.rounding o d).2, phase := (pulseAt s.cfg.rounding o d).1 } := by
      rw [hrec, pulseEval_o, hd]
      rfl
    have hduty : (t.outAt ch).duty.toNat = (pulseAt s.cfg.rounding o d).2 := by
      rw [hout]
      exact dutyOf_toNat (pulseAt_le ..)
    have hphase : (t.outAt ch).phase = (pulseAt s.cfg.rounding o d).1 := by rw [hout]
    refine ⟨by rw [hout], ?_, ?_⟩
    · rw [hops, pulseEval_ops, ← hrec]
      rfl
    · rw [hduty, hphase]
      refine ⟨fun h1 => ?_, fun h1 h2 => ?_, fun h1 h2 => ?_, fun h1 => ?_⟩
      · rw [pulseAt_rising _ h1]
        exact ⟨rfl, rfl⟩
      · rw [pulseAt_on _ h1 h2]
        exact ⟨rfl, rfl⟩
      · rw [pulseAt_falling _ h1 h2]
        exact ⟨rfl, rfl⟩
      · rw [pulseAt_off _ h1]
        exact ⟨rfl, rfl⟩

theorem rdiv_le_of_lt_half (r : Rounding) {n k d : Nat} (h : 2 * n < (2 * k + 1) * d) : rdiv r n d ≤ k := by
  have hn := Nat.div_add_mod' n d
  by_contra hk
  obtain ⟨e, -⟩ | ⟨e, hhalf⟩ := rdiv_cases r n d <;> rw [e] at hk
  · have hq := Nat.mul_le_mul_right d (by omega : 2 * k + 1 ≤ 2 * (n / d))
    rw [Nat.mul_assoc] at hq
    omega
  · have hq := Nat.mul_le_mul_right d (by omega : 2 * k + 1 ≤ 2 * (n / d) + 1)
    rw [Nat.add_mul (2 * (n / d)), Nat.mul_assoc] at hq
    omega

/-- Adding less than k times d to the numerator raises the quotient by at most k. Adding k times d itself may raise it by k + 1,
from one tie rounded to even to the next. -/
theorem rdiv_add_le (r : Rounding) {n m k d : Nat} (h : m < k * d) : rdiv r (n + m) d ≤ rdiv r n d + k := by
  have hn := Nat.div_add_mod' n d
  have hd : 0 < d := Nat.pos_of_ne_zero (by rintro rfl; simp at h)
  have hlt := Nat.mod_lt n hd
  obtain ⟨e, hhalf⟩ | ⟨e, -⟩ := rdiv_cases r n d <;> rw [e]
  · refine rdiv_le_of_lt_half r ?_
    rw [Nat.mul_add, Nat.mul_add, Nat.add_mul, Nat.add_mul, Nat.mul_assoc, Nat.mul_assoc]
    omega
  · refine rdiv_le r hd ?_
    rw [Nat.add_mul, Nat.add_mul]
    omega

/-- The rise of a pulse's duty from one time unit to the next is at most ⌈100/a⌉ (R87). If a divides 100 both duties are exact, so
there is no tie; else ⌈100/a⌉ times a is more than 100. -/
theorem rdiv_rise_le (r : Rounding) (d : Nat) {a : Nat} (ha : 0 < a) :
    rdiv r (100 * (d + 1)) a ≤ rdiv r (100 * d) a + (100 + a - 1) / a := by
  by_cases hdvd : a ∣ 100
  · obtain ⟨k, hk⟩ := hdvd
    have hexact : ∀ e, rdiv r (100 * e) a = k * e := fun e => by
      rw [hk, Nat.mul_assoc, Nat.mul_comm, rdiv_mul r _ ha]
    have hceil : k ≤ (100 + a - 1) / a := (Nat.le_div_iff_mul_le ha).2 (by rw [Nat.mul_comm]; omega)
    rw [hexact, hexact, Nat.mul_add]
    omega
  · refine rdiv_add_le r (Nat.lt_of_le_of_ne ?_ fun h => hdvd ⟨_, h.trans (Nat.mul_comm _ _)⟩)
    have hceil := Nat.lt_div_mul_add ha (a := 100 + a - 1)
    omega

/-- Settles O27: each clause in the phase of `pulseAt` it speaks of, by the monotonicity and the bounds of `rdiv`. -/
theorem pulseDutyRisesHoldsAndFalls : Obligations.PulseDutyRisesHoldsAndFalls := by
  rintro r o a b c rfl rfl rfl
  refine ⟨fun ha => ?_, fun ha => ?_, fun d hd => ?_, fun d had hdb => ?_, fun d hbd hdc => ?_, fun hbc => ?_, fun d hd => ?_,
    pulseAt_le r o⟩
  · rw [pulseAt_rising r (Nat.zero_le _), if_neg (Nat.ne_of_gt ha), rdiv_zero_left r ha]
  · rw [pulseAt_rising r (Nat.zero_le _), if_pos ha]
  · have ha : 0 < o.tOn.toNat := by omega
    rw [pulseAt_rising r hd, pulseAt_rising r (by omega : d ≤ o.tOn.toNat), if_neg (Nat.ne_of_gt ha),
      if_neg (Nat.ne_of_gt ha)]
    exact ⟨rdiv_mono r _ (by omega), rdiv_rise_le r d ha⟩
  · obtain rfl | hlt := Nat.eq_or_lt_of_le had
    · rw [pulseAt_rising r (Nat.le_refl _)]
      split
      · rfl
      · exact rdiv_mul r 100 (Nat.pos_of_ne_zero ‹_›)
    · rw [pulseAt_on r hlt hdb]
  · rw [pulseAt_falling r (by omega) hdc, pulseAt_falling r hbd (by omega)]
    exact rdiv_mono r _ (by omega)
  · rw [pulseAt_falling r hbc (Nat.le_refl _), Nat.sub_self]
    exact rdiv_zero_left r (by omega)
  · rw [pulseAt_off r hd]

/-! ### The fade (R88, R89, R98) -/

theorem channelTick_fade_due {now : Time} (rd : Rounding) (ch : Chan) {o : OutCh} (ho : o.Inv) (he : o.engine = .fade)
    (hg : (now - o.start).toNat % 100 = 0) :
    channelTick rd now ch (ChanRun.start o) = fadeEval rd now ch (ChanRun.start o) := by
  rw [channelTick_of_engine rd now ch ho (by simp [he]), engineTick_fade_due (r := ChanRun.start o) rd ch he hg]

theorem channelTick_fade_off_grid {now : Time} (rd : Rounding) (ch : Chan) {o : OutCh} (ho : o.Inv) (he : o.engine = .fade)
    (hg : (now - o.start).toNat % 100 ≠ 0) : channelTick rd now ch (ChanRun.start o) = ChanRun.start o := by
  rw [channelTick_of_engine rd now ch ho (by simp [he]), engineTick_fade_off_grid (r := ChanRun.start o) rd ch he hg]

/-- Settles O28: on its grid the channel shows the fade's sample, which `fadeAt_between` bounds by the two duties. -/
theorem fadeRunsOnItsGrid : Obligations.FadeRunsOnItsGrid := by
  rintro s t ch o e hs h ho he rfl
  have hinv : o.Inv := hs.out_inv o (List.mem_of_getElem? ho)
  obtain ⟨hrec, hops⟩ := timeStep_channel hs h ch
  rw [s.outAt_of_getElem? ho] at hrec hops
  refine ⟨fun hg => ?_, fun hg => ?_⟩
  · rw [channelTick_fade_off_grid _ ch hinv he hg] at hrec hops
    exact ⟨hrec, hops⟩
  · rw [channelTick_fade_due _ ch hinv he hg] at hrec hops
    refine ⟨by rw [hrec, fadeEval_o]; rfl, by rw [hops, fadeEval_ops, ← hrec]; rfl, fun hend => ?_, fun hrun => ?_⟩
    · rw [hrec, fadeEval_done (r := ChanRun.start o) _ ch hend]
      exact ⟨rfl, rfl⟩
    · obtain ⟨hmin, hmax⟩ := fadeAt_between s.cfg.rounding o hrun
      have hduty := dutyOf_toNat (hmax.trans (max_le hinv.fStart_le hinv.fEnd_le))
      rw [hrec, fadeEval_running (r := ChanRun.start o) _ ch hrun]
      exact ⟨he, hduty, hmin.trans_eq hduty.symm, hduty.trans_le hmax⟩

theorem exec_fade_of_ready {s : State} {ch : Chan} (hr : OutReady s ch) (hd : FadeDutiesOk s) :
    exec (.fade ch) s =
      .next (s.onOut ch (startFade s.cfg s.now (dutyOperand s.arg0) (dutyOperand s.arg1) s.arg2 ch)) := by
  obtain ⟨hbusy, hch, -⟩ := hr
  have hw : (Instr.fade ch).wellFormed s.cfg = true := decide_eq_true hch
  rw [exec_of_ready hbusy hw]
  exact if_pos hd

theorem dutyOperand_toNat {v : Word} (h : v.toNat ≤ 100) : (dutyOperand v).toNat = v.toNat := by
  rw [dutyOperand, BitVec.toNat_setWidth, Nat.mod_eq_of_lt (by omega)]

/-- Settles O22: the record and the operations of `startFade`. -/
theorem fadeStartsTheEngine : Obligations.FadeStartsTheEngine := by
  intro s ch hr h0 h1
  have ho := State.onOut_outAt_self s
    (startFade s.cfg s.now (dutyOperand s.arg0) (dutyOperand s.arg1) s.arg2 ch) hr.channel_lt
  rw [startFade_o, ChanRun.start_o] at ho
  refine ⟨_, exec_fade_of_ready hr ⟨h0, h1⟩, onOut_frame _ _ _, ?_, ?_, ?_, ?_, ?_⟩
  · rw [ho]
    exact dutyOperand_toNat h0
  · rw [ho]
    exact dutyOperand_toNat h1
  · rw [ho]
    dsimp only
    split
    · exact dutyOperand_toNat h1
    · exact dutyOperand_toNat h0
  · rw [ho]
  · rw [onOut_emitted, startFade_ops, startFade_o, ho]
    rfl

/-! ### Runs of time steps (R77, log 2) -/

/-- The run of `k` time steps from `s` ends in `u`, a state that meets the invariant, `k` time units later. -/
structure RunsTo (k : Nat) (s u : State) : Prop where
  run : timeRun k s = .next u
  inv : u.Inv
  schedule : u.schedule = []
  now : u.now = s.now + BitVec.ofNat 64 k

theorem RunsTo.zero {s : State} (hs : s.Inv) : RunsTo 0 s { s with schedule := [] } :=
  ⟨core_run_zero _, hs.of_sameCore rfl, rfl, (BitVec.add_zero _).symm⟩

theorem RunsTo.succ {k : Nat} {s u : State} (h : RunsTo k s u) : RunsTo (k + 1) s (advance u) where
  run := core_run_snoc h.run ((step_of_empty h.schedule).trans (timeStep_of_inv h.inv))
  inv := inv_advance h.inv
  schedule := h.schedule
  now := by
    rw [advance_now, h.now, BitVec.add_assoc, BitVec.ofNat_add]
    rfl

/-- What holds at the start of a run of time steps and is kept by each holds after the run, which never stops. -/
theorem timeRun_induction {s : State} (hs : s.Inv) {P : Nat → State → Prop} (h0 : P 0 { s with schedule := [] })
    (hstep : ∀ k u, RunsTo k s u → P k u → P (k + 1) (advance u)) (k : Nat) : ∃ u : State, RunsTo k s u ∧ P k u := by
  induction k with
  | zero => exact ⟨_, .zero hs, h0⟩
  | succ k ih =>
    obtain ⟨u, hrun, hP⟩ := ih
    exact ⟨advance u, hrun.succ, hstep k u hrun hP⟩

/-- From `s` to `t` the port grew, and channel `ch` kept its record and was told nothing. -/
def Quiet (ch : Chan) (s t : State) : Prop :=
  s.port <+: t.port ∧ t.outAt ch = s.outAt ch ∧ outOps ch (emitted s t) = []

theorem emitted_eq_append {s t u : State} (h₁ : s.port <+: t.port) (h₂ : t.port <+: u.port) :
    emitted s u = emitted s t ++ emitted t u := by
  obtain ⟨a, ha⟩ := h₁
  obtain ⟨b, hb⟩ := h₂
  rw [emitted_trans ha.symm hb.symm, emitted_of_port ha.symm, emitted_of_port hb.symm]

theorem Quiet.advance {ch : Chan} {s u : State} (hu : u.Inv) (h : Quiet ch s u) (he : (s.outAt ch).engine = .none)
    (hs : ¬ ((s.outAt ch).settle = true ∧ u.now + 1 = (s.outAt ch).settleDl)) : Quiet ch s (advance u) := by
  obtain ⟨hport, hrec, hops⟩ := h
  obtain ⟨hrec', hops'⟩ := advance_channel hu ch
  rw [hrec, channelTick_idle _ ch he hs] at hrec' hops'
  refine ⟨hport.trans (advance_port_prefix u), hrec', ?_⟩
  rw [emitted_eq_append hport (advance_port_prefix u), outOps_append, hops, hops']
  rfl

/-- Clearing the schedule is no event of the PSB. -/
theorem quiet_start (ch : Chan) (s : State) : Quiet ch s { s with schedule := [] } :=
  ⟨List.prefix_refl _, rfl, by simp [emitted]⟩

/-! ### After a STOP (R81, R99) -/

theorem exec_stop_of_ready {s : State} {ch : Chan} (hr : OutReady s ch) :
    exec (.stop ch) s = .next (s.onOut ch (doStop ch)) := by
  obtain ⟨hbusy, hch, -⟩ := hr
  have hw : (Instr.stop ch).wellFormed s.cfg = true := decide_eq_true hch
  exact exec_of_ready hbusy hw

/-- Settles O32: a stopped channel has no engine and, being IDLE, no settle delay, so each time step is quiet for it. -/
theorem stoppedChannelStaysQuiet : Obligations.StoppedChannelStaysQuiet := by
  intro s t ch k hs hr h
  have ht : t.Inv := (exec_cases h).inv hs
  cases (exec_stop_of_ready hr).symm.trans h
  have ho := State.onOut_outAt_self s (doStop ch) hr.channel_lt
  rw [doStop_o, ChanRun.start_o] at ho
  have heng : ((s.onOut ch (doStop ch)).outAt ch).engine = .none := by rw [ho]
  have hset : ((s.onOut ch (doStop ch)).outAt ch).settle = false := (outAt_inv ht ch).not_settle (.inl (by simp [ho]))
  obtain ⟨u, hrun, -, hrec, hops⟩ := timeRun_induction ht (P := fun _ u => Quiet ch (s.onOut ch (doStop ch)) u)
    (quiet_start ch _) (fun _ _ hrun hq => hq.advance hrun.inv heng (by simp [hset])) k
  exact ⟨u, hrun.run, hrec, hops⟩

/-! ### The settle delay of a WRITE (R78, R91, R140) -/

theorem exec_write_of_ready {s : State} {ch : Chan} {v : Bool} (hr : OutReady s ch) :
    exec (.write ch v) s = .next (s.onOut ch (doWrite s.now ch v)) := by
  obtain ⟨hbusy, hch, -⟩ := hr
  have hw : (Instr.write ch v).wellFormed s.cfg = true := decide_eq_true hch
  exact exec_of_ready hbusy hw

theorem lt_length_of_settle {s : State} {ch : Chan} (h : (s.outAt ch).settle = true) : ch.toNat < s.out.length := by
  by_contra hlt
  rw [State.outAt_eq, List.getElem?_eq_none (Nat.le_of_not_lt hlt)] at h
  cases h

theorem busy_of_settle {s : State} {ch : Chan} (h : (s.outAt ch).settle = true) : s.busy = true :=
  List.any_eq_true.2 ⟨_, s.outAt_mem (lt_length_of_settle h), h⟩

/-- A time step in which the one settling channel comes to its deadline ends BUSY: a channel that settles after the step settled
before it and had not come to its deadline. -/
theorem advance_not_busy {s : State} (hs : s.Inv) {ch : Chan} (hset : (s.outAt ch).settle = true)
    (hdl : s.now + 1 = (s.outAt ch).settleDl) : (advance s).busy = false := by
  refine List.any_eq_false.2 fun p hp hpset => ?_
  obtain ⟨i, hi, rfl⟩ := List.mem_mapIdx.1 hp
  obtain ⟨hold, hne, -⟩ := channelTick_settle hpset
  have hch : s.out[ch.toNat]? = some (s.outAt ch) := by
    simp [State.outAt_eq, List.getElem?_eq_getElem (lt_length_of_settle hset)]
  obtain rfl := hs.one_settle i ch.toNat _ _ (List.getElem?_eq_getElem hi) hch hold hset
  rw [s.outAt_of_getElem? (List.getElem?_eq_getElem hi)] at hdl
  exact hne hdl

/-- What a time step emits carries the new NOW (R130). -/
theorem mem_emitted_advance {s : State} {ch : Chan} {op : PinOp} (h : op ∈ outOps ch (emitted s (advance s))) :
    { time := s.now + 1, op := op } ∈ emitted s (advance s) := by
  have hem : emitted s (advance s) = stamp (s.now + 1) _ :=
    onEveryOut_emitted { s with now := s.now + 1 } (channelTick s.cfg.rounding (s.now + 1))
  rw [hem] at h ⊢
  rw [outOps_stamp] at h
  exact List.mem_map_of_mem (List.mem_of_mem_filter h)

/-- The time step in which a channel's settle delay ends (R78). -/
theorem advance_settle_due {s : State} (hs : s.Inv) {ch : Chan} (hset : (s.outAt ch).settle = true)
    (hdl : s.now + 1 = (s.outAt ch).settleDl) :
    (advance s).outAt ch = { s.outAt ch with level := true, settle := false } ∧
      outOps ch (emitted s (advance s)) = [.writeDigital ch true] := by
  have heng : (s.outAt ch).engine = .none := ((outAt_inv hs ch).settle_writing hset).2
  obtain ⟨hrec, hops⟩ := advance_channel hs ch
  rw [hrec, hops, channelTick_of_no_engine _ _ ch heng, settleExpiry_due (r := ChanRun.start (s.outAt ch)) ch ⟨hset, hdl⟩]
  exact ⟨rfl, rfl⟩

/-- `ofNat` tells apart times that are less than 2^64 apart. -/
theorem time_add_inj {now : Time} {m n : Nat} (hm : m < 2 ^ 64) (hn : n < 2 ^ 64) :
    now + BitVec.ofNat 64 m = now + BitVec.ofNat 64 n ↔ m = n := by
  rw [BitVec.add_right_inj, ← BitVec.toNat_inj, BitVec.toNat_ofNat, BitVec.toNat_ofNat, Nat.mod_eq_of_lt hm,
    Nat.mod_eq_of_lt hn]

/-- Before its deadline a settling channel is quiet. -/
theorem timeRun_settling {s : State} (hs : s.Inv) {ch : Chan} {m : Nat} (hset : (s.outAt ch).settle = true)
    (hdl : (s.outAt ch).settleDl = s.now + BitVec.ofNat 64 m) (hm : m < 2 ^ 64) {k : Nat} (hk : k < m) :
    ∃ u : State, RunsTo k s u ∧ Quiet ch s u := by
  have heng : (s.outAt ch).engine = .none := ((outAt_inv hs ch).settle_writing hset).2
  have hstep : ∀ k u, RunsTo k s u → (k < m → Quiet ch s u) → k + 1 < m → Quiet ch s (advance u) := by
    intro k u hrun hq hk
    have hnow : u.now + 1 = s.now + BitVec.ofNat 64 (k + 1) := hrun.succ.now
    refine (hq (by omega)).advance hrun.inv heng fun ⟨_, hdue⟩ => ?_
    rw [hdl, hnow, time_add_inj (by omega) hm] at hdue
    omega
  obtain ⟨u, hrun, hq⟩ := timeRun_induction hs (P := fun k u => k < m → Quiet ch s u) (fun _ => quiet_start ch s) hstep k
  exact ⟨u, hrun, hq hk⟩

/-- Settles O30: 19 quiet time steps, and the one that reaches the deadline. -/
theorem settleTakesTwentyTimeSteps : Obligations.SettleTakesTwentyTimeSteps := by
  intro s t ch hs hr hb h
  have ht : t.Inv := (exec_cases h).inv hs
  cases (exec_write_of_ready hr).symm.trans h
  have ho := State.onOut_outAt_self s (doWrite s.now ch true) hr.channel_lt
  rw [doWrite_of_settles (r := ChanRun.start (s.outAt ch)) ch ⟨hb, rfl⟩] at ho
  have hset : ((s.onOut ch (doWrite s.now ch true)).outAt ch).settle = true := by rw [ho]
  have hdl : ((s.onOut ch (doWrite s.now ch true)).outAt ch).settleDl = s.now + BitVec.ofNat 64 20 := by
    rw [ho]
    rfl
  refine ⟨fun k hk => ?_, ?_⟩
  · obtain ⟨u, hrun, -, hrec, hops⟩ := timeRun_settling ht hset hdl (by decide) hk
    exact ⟨u, hrun.run, busy_of_settle (hrec ▸ hset), hops⟩
  · obtain ⟨u, hrun, hport, hrec, hops⟩ := timeRun_settling ht hset hdl (by decide) (by decide : 19 < 20)
    have hnow : u.now + 1 = s.now + 20 := hrun.succ.now
    rw [← hrec] at hset hdl
    have hdue : u.now + 1 = (u.outAt ch).settleDl := hnow.trans hdl.symm
    obtain ⟨hrec', hops'⟩ := advance_settle_due hrun.inv hset hdue
    have hmem : .writeDigital ch true ∈ outOps ch (emitted u (advance u)) := by simp [hops']
    refine ⟨advance u, hrun.succ.run, advance_not_busy hrun.inv hset hdue, by rw [hrec'], ?_, ?_⟩ <;>
      rw [emitted_eq_append hport (advance_port_prefix u)]
    · rw [outOps_append, hops, hops']
      rfl
    · exact List.mem_append_right _ (hnow ▸ mem_emitted_advance hmem)

/-! ### A fade to its end (R88, R89, R90) -/

/-- The time units from a fade's start to its last sample: the first multiple of 100 at or after its duration (R88, R90). -/
def fadeLength (fDur : Word) : Nat := (fDur.toNat + 99) / 100 * 100

/-- The record of a fade that began as `o`, `k` time units into it: only the duty is left open while it runs. -/
def FadeRecord (o : OutCh) (k : Nat) (p : OutCh) : Prop :=
  if k < fadeLength o.fDur then p = { o with engine := .fade, duty := p.duty }
  else p = { o with engine := .none, duty := o.fEnd }

section
variable {o p : OutCh} {k : Nat}

theorem fadeRecord_running (h : k < fadeLength o.fDur) :
    FadeRecord o k p ↔ p = { o with engine := .fade, duty := p.duty } := by
  rw [FadeRecord, if_pos h]

theorem fadeRecord_ended (h : fadeLength o.fDur ≤ k) : FadeRecord o k p ↔ p = { o with engine := .none, duty := o.fEnd } := by
  rw [FadeRecord, if_neg (Nat.not_lt_of_le h)]

/-- A running fade takes its samples at the multiples of 100, and the one at `fadeLength` ends it. -/
theorem FadeRecord.channelTick_running (rd : Rounding) {now : Time} (ch : Chan) (hp : p.Inv)
    (hnow : now = o.start + BitVec.ofNat 64 (k + 1)) (hk : k < fadeLength o.fDur) (h : FadeRecord o k p) :
    FadeRecord o (k + 1) (channelTick rd now ch (ChanRun.start p)).o := by
  rw [fadeRecord_running hk] at h
  have heng : p.engine = .fade := by rw [h]
  have hdur : p.fDur = o.fDur := by rw [h]
  have hlt := o.fDur.isLt
  unfold fadeLength at hk
  have helapsed : (now - p.start).toNat = k + 1 := by
    rw [h, hnow, BitVec.add_comm, BitVec.add_sub_cancel, BitVec.toNat_ofNat, Nat.mod_eq_of_lt (by omega)]
  by_cases hg : (k + 1) % 100 = 0
  · rw [channelTick_fade_due rd ch hp heng (by rwa [helapsed])]
    by_cases hend : o.fDur.toNat ≤ k + 1
    · rw [fadeRecord_ended (by unfold fadeLength; omega),
        fadeEval_done (r := ChanRun.start p) rd ch (by rw [ChanRun.start_o, helapsed, hdur]; exact hend), ChanRun.start_o, h]
    · rw [fadeRecord_running (by unfold fadeLength; omega),
        fadeEval_running (r := ChanRun.start p) rd ch (by rw [ChanRun.start_o, helapsed, hdur]; omega), ChanRun.start_o, h]
  · rw [channelTick_fade_off_grid rd ch hp heng (by rwa [helapsed]), fadeRecord_running (by unfold fadeLength; omega)]
    exact h

/-- A fade that has ended stays as it is: it has no engine, and settles no WRITE. -/
theorem FadeRecord.channelTick_ended (rd : Rounding) (now : Time) (ch : Chan) (hp : p.Inv) (he : o.effect = .fading)
    (hk : fadeLength o.fDur ≤ k) (h : FadeRecord o k p) :
    FadeRecord o (k + 1) (channelTick rd now ch (ChanRun.start p)).o := by
  rw [fadeRecord_ended hk] at h
  have heng : p.engine = .none := by rw [h]
  have hset : p.settle = false := hp.not_settle (.inl (by simp [h, he]))
  rw [channelTick_idle rd ch heng (by simp [hset]), fadeRecord_ended (by omega)]
  exact h

end

/-- After any number of time steps the channel's record is that of the fade at that time. -/
theorem timeRun_fade {s : State} (hs : s.Inv) {ch : Chan} (he : (s.outAt ch).effect = .fading)
    (hstart : (s.outAt ch).start = s.now) (h0 : FadeRecord (s.outAt ch) 0 (s.outAt ch)) (k : Nat) :
    ∃ u : State, RunsTo k s u ∧ FadeRecord (s.outAt ch) k (u.outAt ch) := by
  refine timeRun_induction hs (P := fun k u => FadeRecord (s.outAt ch) k (u.outAt ch)) h0 (fun k u hrun h => ?_) k
  have hnow : u.now + 1 = (s.outAt ch).start + BitVec.ofNat 64 (k + 1) := hstart ▸ hrun.succ.now
  rw [(advance_channel hrun.inv ch).1]
  obtain hk | hk := Nat.lt_or_ge k (fadeLength (s.outAt ch).fDur)
  · exact h.channelTick_running _ ch (outAt_inv hrun.inv ch) hnow hk
  · exact h.channelTick_ended _ _ ch (outAt_inv hrun.inv ch) he hk

/-- The record that `startFade` leaves is that of a fade at time 0; a fade of duration 0 has ended there. -/
theorem fadeRecord_startFade (cfg : Params) (now : Time) (a b : Duty) (d : Word) (ch : Chan) (r : ChanRun) :
    FadeRecord (startFade cfg now a b d ch r).o 0 (startFade cfg now a b d ch r).o := by
  rw [startFade_o]
  by_cases hd : d = 0
  · rw [fadeRecord_ended (by simp [hd, fadeLength]), if_pos hd, if_pos hd]
  · have hpos : 0 < d.toNat := Nat.pos_of_ne_zero fun h => hd (BitVec.eq_of_toNat_eq h)
    rw [fadeRecord_running (by simp only [fadeLength]; omega), if_neg hd]

/-- Settles O31: FADE leaves the record of a fade at time 0, which `timeRun_fade` follows. -/
theorem fadeEndsAtItsEndDuty : Obligations.FadeEndsAtItsEndDuty := by
  intro s t ch hs hr h0 h1 h
  have ht : t.Inv := (exec_cases h).inv hs
  have hexec := exec_fade_of_ready hr ⟨h0, h1⟩
  rw [h, Host.Outcome.next.injEq] at hexec
  have ho : t.outAt ch = _ := hexec ▸ State.onOut_outAt_self s _ hr.channel_lt
  have hnow : t.now = s.now := by rw [hexec]; rfl
  have hstart := ho ▸ fadeRecord_startFade s.cfg s.now (dutyOperand s.arg0) (dutyOperand s.arg1) s.arg2 ch _
  rw [startFade_o] at ho
  have hrec := timeRun_fade ht (ch := ch) (by rw [ho]) (by rw [ho, hnow]) hstart
  have hlength : fadeLength (t.outAt ch).fDur = (s.arg2.toNat + 99) / 100 * 100 := by rw [ho, fadeLength]
  have hduty : (t.outAt ch).fEnd.toNat = s.arg1.toNat := by rw [ho]; exact dutyOperand_toNat h1
  have heff : (t.outAt ch).effect = .fading := by rw [ho]
  rw [← hlength, ← hduty]
  refine ⟨fun k hk => ?_, ?_⟩
  · obtain ⟨u, hrun, hu⟩ := hrec k
    rw [fadeRecord_running hk] at hu
    exact ⟨u, hrun.run, by rw [hu]⟩
  · obtain ⟨u, hrun, hu⟩ := hrec (fadeLength (t.outAt ch).fDur)
    rw [fadeRecord_ended (Nat.le_refl _)] at hu
    exact ⟨u, hrun.run, by rw [hu], by rw [hu]; exact heff, by rw [hu]⟩

end Sys2Proof.Machine

/-! The proofs of the statements about the timed-output commands (41_timed_output.md): WRITE, TOGGLE, BLINK in place, the
delegating PULSE, the operand checks, STOP, STOP_ALL and NOP. -/

namespace Sys2Proof.Machine

/-! ### NOP, and a command on an output channel (R101, R120) -/

/-- Settles O13: NOP names no channel, so BUSY is its only check. -/
theorem nopChangesNothing : Obligations.NopChangesNothing := fun _ hb => exec_of_ready (i := .nop) hb rfl

/-- A command on an output channel of the build runs its effect (R120). -/
theorem exec_out_of_ready {i : Instr} {s : State} {ch : Chan} (ht : i.target = some (.out, ch)) (hb : s.busy = false)
    (hc : s.cfg.HasChannel .out ch) : exec i s = effect i s := by
  refine exec_of_ready hb ?_
  rw [Instr.wellFormed, ht]
  exact decide_eq_true hc

/-! ### WRITE and TOGGLE (R91, R94, R95) -/

/-- Settles O14: the record and the operations of `doWrite`, with and without the settle delay. -/
theorem writeStopsPwmThenWrites : Obligations.WriteStopsPwmThenWrites := by
  intro s ch v hr
  have ho := State.onOut_outAt_self s (doWrite s.now ch v) hr.channel_lt
  have hops := onOut_emitted s ch (doWrite s.now ch v)
  refine ⟨_, exec_write_of_ready hr, onOut_frame _ _ _, fun h => ?_, fun h => ?_⟩
  · rw [doWrite_of_settles (r := ChanRun.start (s.outAt ch)) ch h] at ho hops
    exact ⟨hops, ho⟩
  · rw [doWrite_of_not_settles (r := ChanRun.start (s.outAt ch)) ch h, List.append_assoc] at ho hops
    exact ⟨hops, ho⟩

theorem exec_toggle_of_ready {s : State} {ch : Chan} (hr : OutReady s ch) :
    exec (.toggle ch) s = .next (s.onOut ch (doWrite s.now ch (toggleLevel (s.outAt ch)))) := by
  obtain ⟨hb, hc, -⟩ := hr
  exact exec_out_of_ready rfl hb hc

/-- From a blinking state TOGGLE writes 0, so it never settles (R95). -/
theorem not_settles_toggleLevel (o : OutCh) : ¬ Settles o (toggleLevel o) := by
  rintro ⟨hb, hl⟩
  rw [toggleLevel, if_pos hb] at hl
  cases hl

/-- Settles O15: the record and the operations of a `doWrite` that does not settle. -/
theorem toggleWritesTheOtherLevel : Obligations.ToggleWritesTheOtherLevel := by
  intro s ch hr
  have ho := State.onOut_outAt_self s (doWrite s.now ch (toggleLevel (s.outAt ch))) hr.channel_lt
  have hops := onOut_emitted s ch (doWrite s.now ch (toggleLevel (s.outAt ch)))
  have hnot : ¬ Settles (ChanRun.start (s.outAt ch)).o (toggleLevel (s.outAt ch)) := not_settles_toggleLevel _
  rw [doWrite_of_not_settles ch hnot, List.append_assoc] at ho hops
  refine ⟨_, exec_toggle_of_ready hr, onOut_frame _ _ _, ho, ?_⟩
  rw [hops, ho]
  rfl

/-! ### BLINK in place (R92, R102) -/

/-- Everything BLINK can do: be refused, or run `doBlink` on its channel. -/
theorem exec_blink_cases {s t : State} {ch : Chan} {offp : Bool} (h : exec (.blink ch offp) s = .next t) :
    (∃ code : ErrCode, t = s.raise code) ∨
      t = s.onOut ch (doBlink s.cfg.rounding (blinkOn s) (blinkOff s offp) ch) := by
  rw [exec_eq] at h
  split at h
  · cases h
    exact .inl ⟨_, rfl⟩
  split at h
  · rw [effect, blinkWith] at h
    split at h <;> cases h
    · exact .inr rfl
    · exact .inl ⟨_, rfl⟩
  · cases h
    exact .inl ⟨_, rfl⟩

theorem eq_of_mem_teardownOps {ch : Chan} {o : OutCh} {op : PinOp} (h : op ∈ teardownOps ch o) : op = .changeDuty ch 0 := by
  unfold teardownOps at h
  split at h
  · exact List.mem_singleton.1 h
  · cases h

/-- In place, BLINK only changes duties and the frequency. -/
theorem kind_of_mem_doBlink_ops {rd : Rounding} {on off : Word} {ch : Chan} {o : OutCh} (hb : o.blinking = true) {op : PinOp}
    (h : op ∈ (doBlink rd on off ch (ChanRun.start o)).ops) : op.kind = 2 ∨ op.kind = 3 := by
  have hb' : (ChanRun.start o).o.blinking = true := hb
  rw [doBlink_ops, if_pos hb', ChanRun.start_ops, List.nil_append, List.mem_append, List.mem_pair] at h
  obtain h | rfl | rfl := h
  · rw [eq_of_mem_teardownOps h]
    exact .inl rfl
  · exact .inr rfl
  · exact .inl rfl

theorem op_mem_of_mem_stamp {now : Time} {l : List PinOp} {e : PortEntry} (h : e ∈ stamp now l) : e.op ∈ l := by
  obtain ⟨op, hop, rfl⟩ := List.mem_map.1 h
  exact hop

theorem emitted_raise (s : State) (code : ErrCode) : emitted s (s.raise code) = [] :=
  emitted_of_port (List.append_nil _).symm

/-- A port record reads back as R130 lays it out. -/
theorem record_fields (op : PinOp) :
    op.record.extractLsb' 68 4 = op.kind ∧ op.record.extractLsb' 64 4 = op.chan ∧
      op.record.extractLsb' 32 32 = op.fieldA ∧ op.record.extractLsb' 0 32 = op.fieldB := by
  refine ⟨?_, ?_, ?_, ?_⟩ <;> simp [PinOp.record, BitVec.extractLsb'_or]

theorem fieldA_writeDigital (c : Chan) (level : Bool) :
    (PinOp.writeDigital c level).fieldA = if level then 1 else 0 := by
  cases level <;> rfl

/-- A duty fills the low 7 bits of its field. -/
theorem duty_setWidth_toNat (d : Duty) : (d.setWidth 32).toNat = d.toNat :=
  BitVec.toNat_setWidth_of_le (by decide)

/-- Settles O17: the kinds that BLINK emits in place, and R130's record of each operation. -/
theorem blinkInPlaceNeverStartsPwm : Obligations.BlinkInPlaceNeverStartsPwm := by
  refine ⟨fun s t ch offp hb h e he => ?_, record_fields, fun c level v d => ⟨?_, ?_, ?_, ?_, ?_, ?_, ?_⟩⟩
  · have hkind : e.op.kind ≠ 1 := by
      obtain ⟨code, rfl⟩ | rfl := exec_blink_cases h
      · rw [emitted_raise] at he
        cases he
      · rw [onOut_emitted] at he
        obtain hk | hk := kind_of_mem_doBlink_ops hb (op_mem_of_mem_stamp he) <;> rw [hk] <;> decide
    refine ⟨hkind, fun c period duty heq => hkind ?_⟩
    rw [heq]
    rfl
  · exact ⟨rfl, rfl, fieldA_writeDigital c level, rfl⟩
  · exact ⟨rfl, rfl, rfl, duty_setWidth_toNat d⟩
  · exact ⟨rfl, rfl, duty_setWidth_toNat d, rfl⟩
  all_goals exact ⟨rfl, rfl, rfl, rfl⟩

/-! ### The delegating PULSE and the operand checks (R96, R97, R98) -/

/-- On a channel of the build a delegating PULSE is the BLINK of its `on` and `off`. -/
theorem exec_pulse_of_delegates {s : State} {ch : Chan} {fl : BitVec 4} (hb : s.busy = false) (hc : s.cfg.HasChannel .out ch)
    (hd : (pulseProfile s fl).Delegates) :
    exec (.pulse ch fl) s = blinkWith ch (pulseProfile s fl).on (pulseProfile s fl).off s := by
  rw [exec_out_of_ready rfl hb hc]
  exact if_pos hd

/-- Settles O19: both commands run `doBlink` of the same durations, which reads no argument. -/
theorem pulseWithoutTransitionsBlinks : Obligations.PulseWithoutTransitionsBlinks := by
  intro s ch fl hr hd hp
  have ⟨hb, hc, _⟩ := hr
  have ho := State.onOut_outAt_self s (doBlink s.cfg.rounding (pulseProfile s fl).on (pulseProfile s fl).off ch) hr.channel_lt
  rw [doBlink_o, ChanRun.start_o] at ho
  have hblink := exec_blink_of_ready (s := { s with arg0 := (pulseProfile s fl).on, arg1 := (pulseProfile s fl).off })
    (offp := true) hr hp
  refine ⟨_, (exec_pulse_of_delegates hb hc hd).trans (if_pos hp), onOut_frame _ _ _, hblink, ?_⟩
  rw [ho]

/-- Settles O20: each command whose channel passes is refused by its own operand check. -/
theorem operandRangesAreChecked : Obligations.OperandRangesAreChecked := by
  intro s ch hb hc
  refine ⟨fun offp hp => ?_, fun fl hd hp => ?_, fun fl hd hp => ?_, fun hduty => ?_⟩
  · exact (exec_out_of_ready rfl hb hc).trans (if_neg hp)
  · exact (exec_pulse_of_delegates hb hc hd).trans (if_neg hp)
  · rw [exec_out_of_ready rfl hb hc, effect, if_neg hd]
    exact if_neg (Nat.not_le_of_lt hp)
  · have hbad : ¬ FadeDutiesOk s := fun ⟨h0, h1⟩ => hduty.elim (Nat.not_lt_of_le h0) (Nat.not_lt_of_le h1)
    exact (exec_out_of_ready rfl hb hc).trans (if_neg hbad)

/-! ### STOP and STOP_ALL (R93, R99, R100) -/

/-- A command that leaves its own channel not settling leaves the PSB not BUSY. -/
theorem onOut_not_busy {s : State} {ch : Chan} {f : ChanRun → ChanRun} (hb : s.busy = false)
    (hf : (f (ChanRun.start (s.outAt ch))).o.settle = false) : (s.onOut ch f).busy = false := by
  refine List.any_eq_false.2 fun p hp hset => ?_
  obtain hp | rfl := List.mem_or_eq_of_mem_set hp
  · exact Bool.false_ne_true ((not_settle_of_not_busy hb hp).symm.trans hset)
  · exact Bool.false_ne_true (hf.symm.trans hset)

/-- STOP starts no settle delay, so the next command finds the channel ready again. -/
theorem OutReady.stop {s : State} {ch : Chan} (hr : OutReady s ch) : OutReady (s.onOut ch (doStop ch)) ch := by
  have ⟨hb, hc, hlen⟩ := hr
  have hset : (s.outAt ch).settle = false := not_settle_of_not_busy hb (s.outAt_mem hr.channel_lt)
  refine ⟨onOut_not_busy hb ?_, hc, List.length_set.trans hlen⟩
  rw [doStop_o]
  exact hset

/-- A second STOP finds neither an engine nor an effect. -/
theorem doStop_of_stopped (ch : Chan) {o : OutCh} (heng : o.engine = .none) (heff : o.effect = .idle) :
    doStop ch (ChanRun.start o) = { o := o, ops := [.stopPwm ch] } := by
  obtain ⟨effect, engine⟩ := o
  obtain rfl : engine = .none := heng
  obtain rfl : effect = .idle := heff
  rfl

/-- Settles O23: the record and the operations of `doStop`, and of `doStop` on what it leaves. -/
theorem stopIsIdempotent : Obligations.StopIsIdempotent := by
  intro s ch hr
  have ho := State.onOut_outAt_self s (doStop ch) hr.channel_lt
  rw [doStop_o, ChanRun.start_o] at ho
  have hsecond := doStop_of_stopped ch (o := (s.onOut ch (doStop ch)).outAt ch) (by rw [ho]) (by rw [ho])
  refine ⟨_, exec_stop_of_ready hr, onOut_frame _ _ _, ho, ?_, ?_⟩
  · rw [onOut_emitted, doStop_ops]
    rfl
  · rw [exec_stop_of_ready hr.stop, onOut_of_fixed hr.stop.channel_lt (by rw [hsecond]), hsecond]
    rfl

/-- The number of a channel below 16 is the channel, so the loop's record is the accessor's. -/
theorem outAt_ofNat {s : State} (hn : s.out.length ≤ 16) {i : Nat} (hi : i < s.out.length) :
    s.outAt (BitVec.ofNat 4 i) = s.out[i] := by
  refine s.outAt_of_getElem? ?_
  rw [BitVec.toNat_ofNat, Nat.mod_eq_of_lt (by omega)]
  exact List.getElem?_eq_getElem hi

theorem onEveryOut_doStop_out (s : State) :
    (s.onEveryOut doStop).out = s.out.map (fun o => { o with
      engine := .none, effect := .idle, duty := if o.engine = .pulse then 0 else o.duty }) := by
  rw [State.onEveryOut_out]
  refine List.ext_getElem (by simp) fun i _ _ => ?_
  rw [List.getElem_mapIdx, List.getElem_map, runAt, doStop_o]
  rfl

theorem onEveryOut_doStop_ops {s : State} (hn : s.out.length ≤ 16) :
    (s.out.mapIdx (fun i o => (runAt doStop i o).ops)).flatten = (List.range s.out.length).flatMap (fun i =>
      teardownOps (BitVec.ofNat 4 i) (s.outAt (BitVec.ofNat 4 i)) ++ [.stopPwm (BitVec.ofNat 4 i)]) := by
  rw [List.flatMap_def]
  congr 1
  refine List.ext_getElem (by simp) fun i hi _ => ?_
  have hlt : i < s.out.length := by simpa using hi
  rw [List.getElem_mapIdx, List.getElem_map, List.getElem_range, outAt_ofNat hn hlt, runAt, doStop_ops]
  rfl

/-- Settles O24: the loop of `doStop` over every channel. -/
theorem stopAllStopsEveryChannel : Obligations.StopAllStopsEveryChannel := by
  intro s hb hn
  refine ⟨_, exec_of_ready (i := .stopAll) hb rfl, rfl, onEveryOut_doStop_out s, ?_⟩
  rw [State.onEveryOut_port, onEveryOut_doStop_ops hn]

end Sys2Proof.Machine

/-! The proofs of the statements about the debounced inputs (42_debounced_input.md): the registrations, IN_CLEAR and the edge
dispatch. -/

namespace Sys2Proof.Machine

/-! ### The commands on an input channel (R103 to R107) -/

theorem InReady.channel_lt {s : State} {ch : Chan} (h : InReady s ch) : ch.toNat < s.inp.length := by
  obtain ⟨-, hch, hlen⟩ := h
  exact hlen ▸ hch

/-- A command on an input channel of the build runs its effect (R120). -/
theorem exec_in_of_ready {i : Instr} {s : State} {ch : Chan} (ht : i.target = some (.inp, ch)) (hr : InReady s ch) :
    exec i s = effect i s := by
  obtain ⟨hb, hc, -⟩ := hr
  refine exec_of_ready hb ?_
  rw [Instr.wellFormed, ht]
  exact decide_eq_true hc

/-- A command whose effect is one write of the channel's record and an emission: its frame, the record and what was emitted. -/
theorem exec_setIn_emit {i : Instr} {s : State} {ch : Chan} {c : InCh} {ops : List PinOp}
    (ht : i.target = some (.inp, ch)) (he : effect i s = .next ((s.setIn ch c).emit ops)) (hr : InReady s ch) :
    ∃ t : State, exec i s = .next t ∧ InFrame s t ch ∧ t.inAt ch = c ∧ emitted s t = stamp s.now ops :=
  ⟨_, (exec_in_of_ready ht hr).trans he, setIn_emit_frame s ch c ops, s.setIn_inAt_self c hr.channel_lt,
    emitted_of_port rfl⟩

/-- Installing takes the operand as MIN_INTERVAL on an Idle channel only (R103). -/
theorem InCh.install_eq_ite (c : InCh) (db : Word) :
    c.install db = { c with subscribed := true, minInterval := if c.subscribed then c.minInterval else db } := by
  rw [InCh.install_eq, InCh.install]
  split <;> rfl

/-- A registration whose slot write is `set`: the record and the emission of `register_slot` (R103). -/
theorem exec_registerSlot {i : Instr} {s : State} {ch : Chan} (set : InCh → InCh) (ht : i.target = some (.inp, ch))
    (he : effect i s = .next (registerSlot ch set s)) (hr : InReady s ch) :
    ∃ t : State, exec i s = .next t ∧ InFrame s t ch ∧
      t.inAt ch = { set (s.inAt ch) with
        subscribed := true
        minInterval := if (set (s.inAt ch)).subscribed then (set (s.inAt ch)).minInterval else s.arg0 } ∧
      emitted s t = stamp s.now (installOps ch (s.inAt ch) s.arg0) := by
  rw [← InCh.install_eq_ite]
  exact exec_setIn_emit ht he hr

/-- Settles O34: each registration is `register_slot` with the write of its own slot. -/
theorem registrationSubscribesOnce : Obligations.RegistrationSubscribesOnce := fun _ _ tok hr =>
  ⟨exec_registerSlot (fun c => { c with high := Slot.set tok }) rfl rfl hr,
    exec_registerSlot (fun c => { c with low := Slot.set tok }) rfl rfl hr,
    exec_registerSlot (fun c => { c with changed := Slot.set tok }) rfl rfl hr⟩

/-- Settles O35: IN_CLEAR writes the reset record and emits `clearOps`. -/
theorem clearUnsubscribes : Obligations.ClearUnsubscribes := fun _ _ hr => exec_setIn_emit rfl rfl hr

/-! ### The edge dispatch (R108, R109) -/

/-- The records of an accepted edge of level `lvl`, in the order in which they are pushed (R109). -/
def edgeRecords (ch : Chan) (c : InCh) (lvl : Bool) : List Word :=
  (if lvl = true ∧ c.high.valid = true then [evrec c.high.tok .inp ch EV_HIGH true] else []) ++
    (if lvl = false ∧ c.low.valid = true then [evrec c.low.tok .inp ch EV_LOW false] else []) ++
    (if c.changed.valid = true then [evrec c.changed.tok .inp ch EV_CHANGED lvl] else [])

/-- The three pushes of an edge are one push of its records. -/
theorem pushEdge_eq_pushAll {s : State} (h : s.evq.length ≤ s.cfg.evqDepth) (ch : Chan) (c : InCh) (lvl : Bool) :
    pushEdge ch c lvl s = s.pushAll (edgeRecords ch c lvl) := by
  rw [pushEdge, pushIf_eq_pushAll h, pushIf_eq_pushAll (pushAll_length _), pushIf_eq_pushAll (pushAll_length _),
    pushAll_append, pushAll_append]
  simp only [edgeRecords, Bool.and_eq_true, Bool.not_eq_true', List.append_assoc]

theorem edge_of_accepts {s : State} {ch : Chan} (hc : s.cfg.HasChannel .inp ch) (hsub : (s.inAt ch).subscribed = true)
    (ha : (s.inAt ch).Accepts s.now) (hq : s.evq.length ≤ s.cfg.evqDepth) (lvl : Bool) :
    edge ch lvl s =
      (s.setIn ch ((s.inAt ch).record s.now lvl)).pushAll (edgeRecords ch (s.inAt ch) lvl) :=
  calc edge ch lvl s
    _ = pushEdge ch (s.inAt ch) lvl (s.setIn ch ((s.inAt ch).record s.now lvl)) := if_pos ⟨hc, hsub, ha⟩
    _ = _ := pushEdge_eq_pushAll (s := s.setIn ch _) hq ch _ lvl

/-- Settles O36: an accepted edge writes the channel's record and pushes `edgeRecords`. -/
theorem acceptedEdgePushesItsRecords : Obligations.AcceptedEdgePushesItsRecords := by
  refine ⟨fun tok ch ev lvl => evrec_fields tok .inp ch ev lvl, ?_⟩
  rintro s ch lvl _ hc hlt hsub ha rfl hq
  rw [edge_of_accepts hc hsub ha hq]
  refine ⟨s.setIn_inAt_self _ hlt, rfl, rfl, rfl, fun k hk => ?_⟩
  exact List.getElem?_set_ne (Ne.symm hk)

/-- Settles O37: each of the three premises fails one of the conditions on which an edge is accepted. -/
theorem otherEdgesAreDropped : Obligations.OtherEdgesAreDropped := by
  intro s ch lvl h
  refine if_neg fun ⟨hc, hsub, ha⟩ => ?_
  obtain hn | hidle | ⟨hlast, hsoon⟩ := h
  · exact Nat.not_lt.2 hn hc
  · exact Bool.false_ne_true (hidle.symm.trans hsub)
  · obtain hfirst | hlate := ha
    · exact Bool.false_ne_true (hfirst.symm.trans hlast)
    · exact Nat.not_lt.2 hlate hsoon

end Sys2Proof.Machine

/-! The proofs of the statements about the touch channels (43_touch_channel.md): the registrations and the touch dispatch. -/

namespace Sys2Proof.Machine

/-! ### The registrations (R111 to R114) -/

theorem TouchReady.channel_lt {s : State} {ch : Chan} (h : TouchReady s ch) : ch.toNat < s.touch.length := by
  obtain ⟨-, hch, hlen⟩ := h
  exact hlen ▸ hch

/-- A command on a channel that its unit has runs its effect, whatever the unit (R120). -/
theorem exec_of_target_ready {i : Instr} {s : State} {u : PsbUnit} {ch : Chan} (ht : i.target = some (u, ch))
    (hb : s.busy = false) (hc : s.cfg.HasChannel u ch) : exec i s = effect i s := by
  refine exec_of_ready hb ?_
  rw [Instr.wellFormed, ht]
  exact decide_eq_true hc

/-- A registration whose slot write is `set` writes its own channel's record and nothing else (R111). -/
theorem exec_registerHandler {i : Instr} {s : State} {ch : Chan} (set : TouchCh → TouchCh)
    (ht : i.target = some (.touch, ch)) (he : effect i s = .next (registerHandler ch set s)) (hr : TouchReady s ch) :
    ∃ t : State, exec i s = .next t ∧ TouchFrame s t ch ∧ t.touchAt ch = set (s.touchAt ch) := by
  have ⟨hb, hc, _⟩ := hr
  exact ⟨_, (exec_of_target_ready ht hb hc).trans he, setTouch_frame s ch _, s.setTouch_touchAt_self _ hr.channel_lt⟩

/-- Settles O38: each registration is `register_handler` with the write of its own slot. -/
theorem touchRegistrationSetsItsSlot : Obligations.TouchRegistrationSetsItsSlot := fun _ _ tok hr =>
  ⟨exec_registerHandler (fun t => { t with pressSlot := Slot.set tok }) rfl rfl hr,
    exec_registerHandler (fun t => { t with releaseSlot := Slot.set tok }) rfl rfl hr,
    exec_registerHandler (fun t => { t with heldSlot := Slot.set tok }) rfl rfl hr⟩

/-! ### The touch dispatch (R115) -/

/-- The record of a touch event, if the slot for it is valid (R115). -/
def touchRecords (ch : Chan) (t : TouchCh) : TouchEvent → List Word
  | .press => if t.pressSlot.valid = true then [evrec t.pressSlot.tok .touch ch EV_PRESS false] else []
  | .release => if t.releaseSlot.valid = true then [evrec t.releaseSlot.tok .touch ch EV_RELEASE false] else []
  | .held => if t.heldSlot.valid = true then [evrec t.heldSlot.tok .touch ch EV_HELD false] else []
  | .none => []

/-- The same record, sought at each of the three slots in turn. -/
theorem touchRecords_eq_append (ch : Chan) (t : TouchCh) (ev : TouchEvent) :
    touchRecords ch t ev =
      (if ev = .press ∧ t.pressSlot.valid = true then [evrec t.pressSlot.tok .touch ch EV_PRESS false] else []) ++
        (if ev = .release ∧ t.releaseSlot.valid = true then [evrec t.releaseSlot.tok .touch ch EV_RELEASE false] else []) ++
        (if ev = .held ∧ t.heldSlot.valid = true then [evrec t.heldSlot.tok .touch ch EV_HELD false] else []) := by
  cases ev <;> simp [touchRecords]

theorem pushTouch_eq_pushAll {s : State} (h : s.evq.length ≤ s.cfg.evqDepth) (ch : Chan) (t : TouchCh) (ev : TouchEvent) :
    pushTouch ch t ev s = s.pushAll (touchRecords ch t ev) := by
  cases ev with
  | press => exact pushIf_eq_pushAll h _ _
  | release => exact pushIf_eq_pushAll h _ _
  | held => exact pushIf_eq_pushAll h _ _
  | none => exact (pushAll_nil h).symm

@[simp] theorem pushIf_touch (s : State) (v : Bool) (r : Word) : (s.pushIf v r).touch = s.touch := by
  cases v with
  | false => rfl
  | true => rw [State.pushIf, if_pos rfl, push_frame]

@[simp] theorem pushTouch_touch (ch : Chan) (t : TouchCh) (ev : TouchEvent) (s : State) :
    (pushTouch ch t ev s).touch = s.touch := by
  cases ev with
  | press => exact pushIf_touch ..
  | release => exact pushIf_touch ..
  | held => exact pushIf_touch ..
  | none => rfl

/-- PRESSED and HELD after an event, each as one formula over the events (R115). -/
theorem TouchCh.after_eq (t : TouchCh) (ev : TouchEvent) :
    t.after ev = { t with
      pressed := decide (ev = .press) || (decide (ev = .held) && t.pressed),
      held := decide (ev = .held) || (decide (ev = .press) && t.held) } := by
  cases ev <;> rfl

theorem touchEvent_of_not_hasChannel {s : State} {ch : Chan} (hc : ¬ s.cfg.HasChannel .touch ch) (ev : TouchEvent) :
    touchEvent ch ev s = s := if_neg hc

/-- A touch event writes its own channel's record, whatever it pushes. -/
theorem touchEvent_touch {s : State} {ch : Chan} (hc : s.cfg.HasChannel .touch ch) (ev : TouchEvent) :
    (touchEvent ch ev s).touch = (s.setTouch ch ((s.touchAt ch).after ev)).touch := by
  rw [touchEvent, if_pos hc, pushTouch_touch]

theorem touchEvent_touchAt_self {s : State} {ch : Chan} (hc : s.cfg.HasChannel .touch ch) (hlt : ch.toNat < s.touch.length)
    (ev : TouchEvent) : (touchEvent ch ev s).touchAt ch = (s.touchAt ch).after ev := by
  rw [State.touchAt, touchEvent_touch hc]
  exact s.setTouch_touchAt_self _ hlt

/-- On a queue within its depth a touch event is the write of the record and one push of `touchRecords`. -/
theorem touchEvent_of_hasChannel {s : State} {ch : Chan} (hc : s.cfg.HasChannel .touch ch)
    (hq : s.evq.length ≤ s.cfg.evqDepth) (ev : TouchEvent) :
    touchEvent ch ev s =
      (s.setTouch ch ((s.touchAt ch).after ev)).pushAll (touchRecords ch (s.touchAt ch) ev) :=
  calc touchEvent ch ev s
    _ = pushTouch ch (s.touchAt ch) ev (s.setTouch ch ((s.touchAt ch).after ev)) := if_pos hc
    _ = _ := pushTouch_eq_pushAll (s := s.setTouch ch _) hq ch _ ev

/-- Settles O39: a touch event on a channel of the build writes `TouchCh.after` and pushes `touchRecords`. -/
theorem touchEventUpdatesAndPushes : Obligations.TouchEventUpdatesAndPushes := by
  refine ⟨⟨rfl, rfl, rfl, rfl⟩, fun tok ch ev lvl => evrec_fields tok .touch ch ev lvl, fun s ch ev => ⟨fun hn => ?_, ?_⟩⟩
  · exact touchEvent_of_not_hasChannel (Nat.not_lt.2 hn) ev
  · intro hc hlt
    refine ⟨?_, fun k hk => ?_, ?_⟩
    · rw [touchEvent_touchAt_self hc hlt, TouchCh.after_eq]
    · rw [touchEvent_touch hc]
      exact List.getElem?_set_ne (Ne.symm hk)
    · intro recs hrecs hq
      obtain rfl : recs = touchRecords ch (s.touchAt ch) ev := hrecs.trans (touchRecords_eq_append ch _ ev).symm
      rw [touchEvent_of_hasChannel hc hq]
      rfl

/-! ### A press and then a release (R117) -/

theorem State.setTouch_setTouch (s : State) (ch : Chan) (t u : TouchCh) :
    (s.setTouch ch t).setTouch ch u = s.setTouch ch u := by
  simp [State.setTouch]

theorem State.pushAll_setTouch (s : State) (l : List Word) (ch : Chan) (t : TouchCh) :
    (s.pushAll l).setTouch ch t = (s.setTouch ch t).pushAll l := rfl

/-- Two touch events on one channel write the record that the second leaves, and push the records of both in order. -/
theorem touchEvent_touchEvent {s : State} {ch : Chan} (hc : s.cfg.HasChannel .touch ch) (hlt : ch.toNat < s.touch.length)
    (hq : s.evq.length ≤ s.cfg.evqDepth) (first second : TouchEvent) :
    touchEvent ch second (touchEvent ch first s) =
      (s.setTouch ch (((s.touchAt ch).after first).after second)).pushAll
        (touchRecords ch (s.touchAt ch) first ++ touchRecords ch ((s.touchAt ch).after first) second) := by
  have hat := touchEvent_touchAt_self hc hlt first
  rw [touchEvent_of_hasChannel hc hq] at hat ⊢
  rw [touchEvent_of_hasChannel (by exact hc) (pushAll_length _), hat, State.pushAll_setTouch,
    State.setTouch_setTouch, pushAll_append]

/-- Settles O40: the RELEASE clears both flags, and the two pushes are one push of the PRESS record and the RELEASE record. -/
theorem pressThenReleaseFiresBothInOrder : Obligations.PressThenReleaseFiresBothInOrder := by
  intro s ch hc hlt hpress hrelease hq
  have hrecs : touchRecords ch (s.touchAt ch) .press ++ touchRecords ch ((s.touchAt ch).after .press) .release =
      [evrec (s.touchAt ch).pressSlot.tok .touch ch EV_PRESS false,
        evrec (s.touchAt ch).releaseSlot.tok .touch ch EV_RELEASE false] := by
    simp [touchRecords, TouchCh.after, hpress, hrelease]
  have hat : (touchEvent ch .release (touchEvent ch .press s)).touchAt ch =
      { s.touchAt ch with pressed := false, held := false } := by
    rw [touchEvent_touchEvent hc hlt hq]
    exact s.setTouch_touchAt_self _ hlt
  rw [hat, touchEvent_touchEvent hc hlt hq, hrecs]
  exact ⟨rfl, rfl, rfl, rfl⟩

end Sys2Proof.Machine

/-! The proofs of the statements about refused commands and the error they record (60_exceptions.md). -/

namespace Sys2Proof.Machine

/-! ### BUSY and BAD_CHANNEL (R119, R120, R140) -/

theorem exec_of_busy {s : State} (hb : s.busy = true) (i : Instr) : exec i s = .next (s.raise .busy) := by
  rw [exec_eq, if_pos hb]

theorem refuseWord_of_busy {s : State} (hb : s.busy = true) (e : DecodeError) :
    refuseWord e s = .next (s.raise .busy) := by
  rw [refuseWord, if_pos hb, refuse]

/-- Settles O9: a word that decodes runs its command, and any other word is refused; either finds BUSY set first. -/
theorem busyRefusesEveryCommand : Obligations.BusyRefusesEveryCommand := by
  refine fun s hb => ⟨exec_of_busy hb, fun w => ?_⟩
  cases hd : decode w with
  | ok i => rw [cmdWrite_of_decode_ok hd, exec_of_busy hb]
  | error e => rw [cmdWrite_of_decode_error hd, refuseWord_of_busy hb]

theorem exec_of_not_wellFormed {s : State} {i : Instr} (hb : s.busy = false) (hw : i.wellFormed s.cfg = false) :
    exec i s = .next (s.raise .badChannel) := by
  simp [exec_eq, hb, hw]

/-- Settles O10: the channel check stands before the command's effect. -/
theorem badChannelIsRefused : Obligations.BadChannelIsRefused := fun _ _ => exec_of_not_wellFormed

/-! ### ERR and what a command does (R118, R121, R122) -/

/-- `s` with ERR = `e` and ERR_CODE = `c`. -/
def State.withErr (s : State) (e : Bool) (c : ErrCode) : State := { s with err := e, errCode := c }

/-- From `s`, `run` completes in `t`, keeps ERR and ERR_CODE, and does the same whatever they hold. -/
structure IgnoresErr (run : State → Host.Outcome State Fault Refusal) (s t : State) : Prop where
  completes : run s = .next t
  err : t.err = s.err
  errCode : t.errCode = s.errCode
  anyErr : ∀ e c, run (s.withErr e c) = .next (t.withErr e c)

/-- From `s`, `run` is refused with a code of R119, or it completes and ignores ERR (R121). -/
def ErrPrecise (run : State → Host.Outcome State Fault Refusal) (s : State) : Prop :=
  (∃ code : ErrCode, code ≠ .none ∧ run s = .next (s.raise code)) ∨ ∃ t : State, IgnoresErr run s t

/-- `ErrPrecise` looks only at what `run` does from `s` with some ERR and ERR_CODE. -/
theorem ErrPrecise.of_eq {run run' : State → Host.Outcome State Fault Refusal} {s : State}
    (h : ErrPrecise run' s) (heq : ∀ e c, run (s.withErr e c) = run' (s.withErr e c)) : ErrPrecise run s := by
  have hs : run s = run' s := heq s.err s.errCode
  obtain ⟨code, hcode, hraise⟩ | ⟨t, ht⟩ := h
  · exact .inl ⟨code, hcode, hs.trans hraise⟩
  · exact .inr ⟨t, hs.trans ht.completes, ht.err, ht.errCode, fun e c => (heq e c).trans (ht.anyErr e c)⟩

theorem blinkWith_errPrecise (ch : Chan) (on off : Word) (s : State) : ErrPrecise (blinkWith ch on off) s := by
  by_cases hp : BlinkPeriodOk on off
  · exact .inr ⟨_, if_pos hp, rfl, rfl, fun _ _ => if_pos hp⟩
  · exact .inl ⟨.periodRange, by decide, if_neg hp⟩

theorem pulseWith_errPrecise (ch : Chan) (p : Profile) (s : State) : ErrPrecise (pulseWith ch p) s := by
  by_cases hp : PulsePeriodOk p
  · exact .inr ⟨_, if_pos hp, rfl, rfl, fun _ _ => if_pos hp⟩
  · exact .inl ⟨.periodRange, by decide, if_neg hp⟩

/-- The operand checks of BLINK, PULSE and FADE refuse precisely, and no effect looks at ERR (R96 to R98). -/
theorem effect_errPrecise (i : Instr) (s : State) : ErrPrecise (effect i) s := by
  cases i
  case blink ch offp => exact (blinkWith_errPrecise ch (blinkOn s) (blinkOff s offp) s).of_eq fun _ _ => rfl
  case pulse ch fl =>
    by_cases hd : (pulseProfile s fl).Delegates
    · exact (blinkWith_errPrecise ch (pulseProfile s fl).on (pulseProfile s fl).off s).of_eq fun _ _ => if_pos hd
    · exact (pulseWith_errPrecise ch (pulseProfile s fl) s).of_eq fun _ _ => if_neg hd
  case fade ch =>
    by_cases hd : FadeDutiesOk s
    · exact .inr ⟨_, if_pos hd, rfl, rfl, fun _ _ => if_pos hd⟩
    · exact .inl ⟨.dutyRange, by decide, if_neg hd⟩
  all_goals exact .inr ⟨_, rfl, rfl, rfl, fun _ _ => rfl⟩

/-- R120's checks refuse precisely too, and look at OUT and the build only. -/
theorem exec_errPrecise (i : Instr) (s : State) : ErrPrecise (exec i) s := by
  cases hb : s.busy
  · cases hw : i.wellFormed s.cfg
    · exact .inl ⟨.badChannel, by decide, exec_of_not_wellFormed hb hw⟩
    · exact (effect_errPrecise i s).of_eq fun e c => exec_of_ready (s := s.withErr e c) hb hw
  · exact .inl ⟨.busy, by decide, exec_of_busy hb i⟩

/-- Settles O11: every command is `ErrPrecise`, and a raise is the update the statement writes out. -/
theorem commandsRunOrAreRefusedPrecisely : Obligations.CommandsRunOrAreRefusedPrecisely := by
  intro i s
  obtain ⟨code, hcode, hraise⟩ | ⟨t, ht⟩ := exec_errPrecise i s
  · exact ⟨_, hraise, .inl ⟨code, hcode, raise_eq s code⟩⟩
  · exact ⟨t, ht.completes, .inr ⟨ht.err, ht.errCode, ht.anyErr⟩⟩

/-! ### The first error (R121, R122) -/

theorem raise_errCode_of_err {s : State} (h : s.err = true) (code : ErrCode) : (s.raise code).errCode = s.errCode :=
  if_pos h

theorem raise_errCode_of_no_err {s : State} (h : s.err = false) (code : ErrCode) : (s.raise code).errCode = code := by
  simp [h]

/-- Settles O12: the first refusal sets ERR, so a second keeps its code; a clear resets ERR, so the next code is recorded. -/
theorem firstErrorWins : Obligations.FirstErrorWins := fun s a b h =>
  have hfirst : (s.raise a).errCode = a := raise_errCode_of_no_err h a
  ⟨hfirst, (raise_errCode_of_err rfl b).trans hfirst, raise_errCode_of_no_err rfl b, rfl⟩

end Sys2Proof.Machine

/-! The proof of the statement about reset (70_reset_and_hazards.md). -/

namespace Sys2Proof.Machine

/-! ### The flags after reset (R18, R126, R135) -/

/-- No channel settles after reset: each record is `OutCh.reset`. -/
@[simp] theorem busy_resetPsb (s : State) : (resetPsb s).busy = false :=
  List.any_eq_false.2 fun o (ho : o ∈ List.replicate s.cfg.nOut OutCh.reset) => by
    rw [List.eq_of_mem_replicate ho]
    decide

@[simp] theorem evtPend_resetPsb (s : State) : (resetPsb s).evtPend = false := rfl

/-- After reset every source of the interrupt line is off: EVQ is empty, and ERR and EVT_OVF are clear. -/
@[simp] theorem irq_resetPsb (s : State) : (resetPsb s).irq = false := by
  have herr : (resetPsb s).err = false := rfl
  have hovf : (resetPsb s).evtOvf = false := rfl
  simp [State.irq, herr, hovf]

/-- Settles O54: the step is `resetPsb`, which keeps the port and leaves every flag clear. -/
theorem resetRestoresAndIsSilent : Obligations.ResetRestoresAndIsSilent := by
  intro s l hs
  have hstep : step s = .next (resetPsb { s with schedule := l }) := step_of_schedule hs
  refine ⟨hstep, fun t ht => ?_⟩
  obtain rfl : resetPsb { s with schedule := l } = t := Host.Outcome.next.inj (hstep.symm.trans ht)
  exact ⟨rfl, busy_resetPsb _, evtPend_resetPsb _, irq_resetPsb _⟩

end Sys2Proof.Machine
